-- ==== Sys2Proof/Word.lean ====
section
/-! DEFINITION. The word types of the block (spec/00_scope.md section 5): a byte is 8 bits, a word is 32 bits, the address
field of a request is 16 bits, a request is one 56-bit word and a response one 36-bit word (30_encoding.md R72, R73). -/

namespace Sys2Proof

/-- A byte of `BUF` or of a frame (00_scope.md section 5). -/
abbrev Byte := BitVec 8

/-- A register value (10_state.md R12). All register values are unsigned. -/
abbrev Word := BitVec 32

/-- The `addr` field of a request (30_encoding.md R72). -/
abbrev Addr := BitVec 16

/-- One request word `REQ` (30_encoding.md R72). -/
abbrev ReqWord := BitVec 56

/-- One response word `RSP` (30_encoding.md R73). -/
abbrev RspWord := BitVec 36

end Sys2Proof
end

