-- ==== Sys2Proof/Config.lean ====
section
/-! DEFINITION. The parameters of the block (spec/00_scope.md R4, R5): fixed when the block is built, changed by no operation
and held by no register. `Config.hw` holds the values this hardware takes. The one free value of the model stands here too:
the content of a byte of `BUF` that nothing has written since reset (93_implementation_defined.md U2). -/

namespace Sys2Proof

/-- The byte order of the numeric header fields (20_memory.md R41). -/
inductive Endian where
  | be
  | le
deriving DecidableEq, Repr

/-- The implementation parameters of 00_scope.md R4. -/
structure Config where
  /-- `MAX_FRAME`, the largest total frame length in bytes. -/
  maxFrame : Nat
  /-- `HDR`, the header length in bytes and the smallest legal frame. -/
  hdr : Nat
  /-- `FIELD`, the width of each header field in bytes. -/
  field : Nat
  /-- `NREG`, the number of 32-bit registers. -/
  nreg : Nat
  /-- `ENDIAN`, the byte order of `checksum`, `sequence` and `offset` in the frame. -/
  endian : Endian
  /-- `CRC_POLY_R`, the generator polynomial in reflected form. -/
  crcPolyR : Word
  /-- `CRC_INIT`, the initial value of the CRC register. -/
  crcInit : Word
  /-- `CRC_XOROUT`, what is XORed onto the CRC register to give the checksum. -/
  crcXorOut : Word
  /-- `TAG_NAME` as a command word (10_state.md R15). -/
  tagName : Word
  /-- `TAG_SIZE` as a command word. -/
  tagSize : Word
  /-- `TAG_HASH` as a command word. -/
  tagHash : Word
  /-- `TAG_DATA` as a command word. -/
  tagData : Word
  /-- `TAG_STOP` as a command word. -/
  tagStop : Word
  /-- No parameter of R4: which of two readings of the spec a `VFY` that finds a mismatch follows, where its files contradict each
  other (log 7). `false`: it leaves the recomputed value in `CRC` (41_codec.md R119, 10_state.md R19, 20_memory.md R47). `true`: it
  keeps `CRC`, as a failing operation does (60_exceptions.md R155, 10_state.md R27). -/
  mismatchKeepsCrc : Bool
deriving DecidableEq, Repr

/-- The values this hardware takes (third column of 00_scope.md R4); on a `VFY` mismatch it follows R119 (DEDUCED, log 7). -/
def Config.hw : Config where
  maxFrame := 1024
  hdr := 16
  field := 4
  nreg := 8
  endian := .be
  crcPolyR := 0xEDB88320#32
  crcInit := 0xFFFFFFFF#32
  crcXorOut := 0xFFFFFFFF#32
  tagName := 0x4E414D45#32
  tagSize := 0x53495A45#32
  tagHash := 0x48415348#32
  tagData := 0x44415441#32
  tagStop := 0x53544F50#32
  mismatchKeepsCrc := false

/-- The same block built with the other byte order (92_eei_decisions.md D1 leaves `ENDIAN` an open parameter). -/
def Config.hwLittle : Config := { Config.hw with endian := .le }

/-- The same block under the other reading of a `VFY` mismatch: R155 and R27 to the letter (log 7). -/
def Config.hwKeepsCrc : Config := { Config.hw with mismatchKeepsCrc := true }

/-- `MAX_PAYLOAD` (00_scope.md R4; 90_conflicts.md C1: 1008 on this hardware). -/
def Config.maxPayload (c : Config) : Nat := c.maxFrame - c.hdr

/-- FREE VALUE (93_implementation_defined.md U2, 10_state.md R31): the content that byte `addr` of `BUF` has after the
`epoch`-th reset event, until it is written. It has no body, so no proof can learn a value of it. Log 2, log 3. -/
opaque Config.bufResetByte : (epoch : Nat) → (addr : Nat) → Byte

end Sys2Proof
end

