-- ==== Sys2Proof/Syntax.lean ====
section
/-! DEFINITION. The syntax of the block: `Instr`, one constructor per row of spec/opcode_table.json (13 operations in format
`REQ56`, 5 command tags in format `FRAME_CMD32`, 30_encoding.md R82); the two kinds of encoded word; result codes and responses
(60_exceptions.md R150, 30_encoding.md R73); the classes of command words (30_encoding.md R66). -/

namespace Sys2Proof

/-- One constructor per row of the opcode table. Only the bits an operation uses are operands: ignored fields have no effect
(30_encoding.md R75). -/
inductive Instr where
  /-- `NOP`, R134. -/
  | nop
  /-- `CLR`, R135. -/
  | clr
  /-- `CRCI`, R101. -/
  | crci
  /-- `CRCB data`, R102: the byte is `data[7:0]`. -/
  | crcb (byte : Byte)
  /-- `CRCF`, R103. -/
  | crcf
  /-- `CRCP`, R104. -/
  | crcp
  /-- `WRB addr, data`, R130: the byte is `data[7:0]`. -/
  | wrb (addr : Addr) (byte : Byte)
  /-- `RDB addr`, R131. -/
  | rdb (addr : Addr)
  /-- `WRR reg, data`, R132: all 16 bits of `addr` are the register number. -/
  | wrr (addr : Addr) (data : Word)
  /-- `RDR reg`, R133. -/
  | rdr (addr : Addr)
  /-- `ENC`, R113. -/
  | enc
  /-- `DEC`, R116. -/
  | dec
  /-- `VFY`, R119. -/
  | vfy
  /-- The command tag `NAME`, R67, class 1. -/
  | name
  /-- The command tag `SIZE`, R67, class 2. -/
  | size
  /-- The command tag `HASH`, R67, class 3. -/
  | hash
  /-- The command tag `DATA`, R67, class 4. -/
  | data
  /-- The command tag `STOP`, R67, class 5. -/
  | stop
deriving DecidableEq, Repr

/-- The row's format: true for the 13 operations (`REQ56`), false for the 5 tags (`FRAME_CMD32`), R82. -/
def Instr.isRequest : Instr → Bool
  | .nop | .clr | .crci | .crcb _ | .crcf | .crcp | .wrb _ _ | .rdb _ | .wrr _ _ | .rdr _ | .enc | .dec | .vfy => true
  | .name | .size | .hash | .data | .stop => false

/-- An encoded word of one of the two formats of the opcode table (R82). -/
inductive Code where
  /-- `REQ56`: a request word (R72). -/
  | request (w : ReqWord)
  /-- `FRAME_CMD32`: a command word (R64). -/
  | command (v : Word)
deriving DecidableEq, Repr

/-- Why a word names no row of the opcode table. -/
inductive Reject where
  /-- One of the 243 reserved operation codes (R76): the request is the illegal request. -/
  | reservedOp (op : BitVec 8)
  /-- A command word that is none of the five tags (R67): its class is 0. -/
  | unknownTag (v : Word)
deriving DecidableEq, Repr

/-- What the outside world hands the block next (70_reset_and_hazards.md R171, R183). -/
inductive Input where
  /-- A word to be decoded: a request, or a command word given to the classifier on its own (log 5). -/
  | word (c : Code)
  /-- The reset event (R170), between requests (R171, log 6). -/
  | reset
deriving DecidableEq, Repr

/-- The result codes of 60_exceptions.md R150; codes 7 to 15 are never produced (U8: seven constructors). -/
inductive ResultCode where
  | none
  | tooShort
  | oversized
  | checksumMismatch
  | illegalOp
  | badAddress
  | readOnly
deriving DecidableEq, Repr

/-- Codes 4 to 6: only a host that breaks the interface contract gets them (60_exceptions.md R152). -/
def ResultCode.isMisuse : ResultCode → Bool
  | .illegalOp | .badAddress | .readOnly => true
  | .none | .tooShort | .oversized | .checksumMismatch => false

/-- A response: result code and datum (30_encoding.md R73). -/
structure Response where
  err : ResultCode
  data : Word
deriving DecidableEq, Repr

/-- The classes of command words, the source's closed variant and `UNKNOWN` (30_encoding.md R66; values 6 and 7 never occur,
10_state.md R21). -/
inductive CmdClass where
  | unknown
  | name
  | size
  | hash
  | data
  | stop
deriving DecidableEq, Repr

end Sys2Proof
end

