-- ==== Sys2Proof/WellFormed.lean ====
section
/-! DEFINITION. Well-formed instructions: the requests a host that keeps the interface contract issues
(spec/70_reset_and_hazards.md R183, 10_state.md R25). Every value of an operand can be encoded, so nothing is ill-formed as a
word; what can be ill-formed is the use of the interface: an address out of range, or a write to a read-only register. The
machine gives those requests the meaning the spec gives them (codes 5 and 6) all the same. -/

namespace Sys2Proof

/-- The buffer address names a byte of `BUF` (20_memory.md R46). -/
def wfBufAddr (a : Addr) : Bool := a.toNat < Config.hw.maxFrame

/-- The register number names a register (20_memory.md R46). -/
def wfRegNumber (a : Addr) : Bool := a.toNat < Config.hw.nreg

/-- The register number is not `CKS`, `CRC` or `STATUS` (42_access_system.md R132). -/
def wfWritable (a : Addr) : Bool := !(a.toNat == 0 || a.toNat == 6 || a.toNat == 7)

/-- The request keeps the contract of 70_reset_and_hazards.md R183. -/
def Instr.wellFormed : Instr → Bool
  | .wrb a _ => wfBufAddr a
  | .rdb a => wfBufAddr a
  | .wrr a _ => wfRegNumber a && wfWritable a
  | .rdr a => wfRegNumber a
  | .nop | .clr | .crci | .crcb _ | .crcf | .crcp | .enc | .dec | .vfy => true
  | .name | .size | .hash | .data | .stop => true

end Sys2Proof
end

