-- ==== Sys2Proof/Decode.lean ====
section
/-! DEFINITION. Decoding and encoding (spec/30_encoding.md R72 to R76, R82; spec/opcode_table.json). A request is decoded by its
`op` byte alone; the decoder is total on all 2^56 request words and all 2^32 command words and names what it rejects. The encoder
after it writes ignored fields as 0 (R75). Also the numbers of result codes and classes (60_exceptions.md R150, R67). -/

namespace Sys2Proof

/-! ### Fields of a request word (R72) -/

/-- `op`, bits 55:48. -/
def reqOp (w : ReqWord) : BitVec 8 := w.extractLsb' 48 8

/-- `addr`, bits 47:32. -/
def reqAddr (w : ReqWord) : Addr := w.extractLsb' 32 16

/-- `data`, bits 31:0. -/
def reqData (w : ReqWord) : Word := w.extractLsb' 0 32

/-- `data[7:0]`, the byte of `WRB` and `CRCB` (R75: bits 31:8 are ignored). -/
def reqByte (w : ReqWord) : Byte := w.extractLsb' 0 8

/-- The request word with the given fields (R72: `op` 55:48, `addr` 47:32, `data` 31:0). -/
def mkRequest (op : BitVec 8) (addr : Addr) (data : Word) : ReqWord := op ++ addr ++ data

/-! ### Decoding -/

/-- The operation map of R74; every other `op` is reserved (R76). -/
def decodeRequest (w : ReqWord) : Except Reject Instr :=
  if reqOp w = 0x00#8 then .ok .nop
  else if reqOp w = 0x01#8 then .ok .clr
  else if reqOp w = 0x10#8 then .ok .crci
  else if reqOp w = 0x11#8 then .ok (.crcb (reqByte w))
  else if reqOp w = 0x12#8 then .ok .crcf
  else if reqOp w = 0x13#8 then .ok .crcp
  else if reqOp w = 0x20#8 then .ok (.wrb (reqAddr w) (reqByte w))
  else if reqOp w = 0x21#8 then .ok (.rdb (reqAddr w))
  else if reqOp w = 0x22#8 then .ok (.wrr (reqAddr w) (reqData w))
  else if reqOp w = 0x23#8 then .ok (.rdr (reqAddr w))
  else if reqOp w = 0x30#8 then .ok .enc
  else if reqOp w = 0x31#8 then .ok .dec
  else if reqOp w = 0x32#8 then .ok .vfy
  else .error (.reservedOp (reqOp w))

/-- The `FRAME_CMD32` rows (R82): the match is on all 32 bits (R68). -/
def decodeCommand (v : Word) : Except Reject Instr :=
  if v = 0x4E414D45#32 then .ok .name
  else if v = 0x53495A45#32 then .ok .size
  else if v = 0x48415348#32 then .ok .hash
  else if v = 0x44415441#32 then .ok .data
  else if v = 0x53544F50#32 then .ok .stop
  else .error (.unknownTag v)

/-- Decoding a word of either format (R82). -/
def decode : Code → Except Reject Instr
  | .request w => decodeRequest w
  | .command v => decodeCommand v

/-! ### Encoding -/

/-- The word of an instruction, ignored fields written as 0 (R74, R75; R66 for the tags). -/
def encode : Instr → Code
  | .nop => .request (mkRequest 0x00#8 0 0)
  | .clr => .request (mkRequest 0x01#8 0 0)
  | .crci => .request (mkRequest 0x10#8 0 0)
  | .crcb b => .request (mkRequest 0x11#8 0 (b.setWidth 32))
  | .crcf => .request (mkRequest 0x12#8 0 0)
  | .crcp => .request (mkRequest 0x13#8 0 0)
  | .wrb a b => .request (mkRequest 0x20#8 a (b.setWidth 32))
  | .rdb a => .request (mkRequest 0x21#8 a 0)
  | .wrr a d => .request (mkRequest 0x22#8 a d)
  | .rdr a => .request (mkRequest 0x23#8 a 0)
  | .enc => .request (mkRequest 0x30#8 0 0)
  | .dec => .request (mkRequest 0x31#8 0 0)
  | .vfy => .request (mkRequest 0x32#8 0 0)
  | .name => .command 0x4E414D45#32
  | .size => .command 0x53495A45#32
  | .hash => .command 0x48415348#32
  | .data => .command 0x44415441#32
  | .stop => .command 0x53544F50#32

/-! ### The opcode table's own numbering -/

/-- A word as spec/opcode_table.json gives it: a row of at most 32 bits is a `FRAME_CMD32` row, a wider one a `REQ56` row (R82). -/
def codeOfTableWord (nbits w : Nat) : Code :=
  if nbits ≤ 32 then .command (BitVec.ofNat 32 w) else .request (BitVec.ofNat 56 w)

/-- The instruction the decoder reads from a table word, none where it rejects. -/
def decodeTableWord (nbits w : Nat) : Option Instr :=
  match decode (codeOfTableWord nbits w) with
  | .ok i => some i
  | .error _ => none

/-! ### Result codes, responses and classes as numbers -/

/-- The 4-bit number of a result code (60_exceptions.md R150). -/
def ResultCode.number : ResultCode → BitVec 4
  | .none => 0
  | .tooShort => 1
  | .oversized => 2
  | .checksumMismatch => 3
  | .illegalOp => 4
  | .badAddress => 5
  | .readOnly => 6

/-- The response word: `err` in bits 35:32, `data` in bits 31:0 (R73). -/
def Response.word (r : Response) : RspWord := r.err.number ++ r.data

/-- The class number of R66 and R67, as it stands in `STATUS.CLASS` (three bits, 10_state.md R21). -/
def CmdClass.number : CmdClass → BitVec 3
  | .unknown => 0
  | .name => 1
  | .size => 2
  | .hash => 3
  | .data => 4
  | .stop => 5

end Sys2Proof
end

