-- ==== Sys2Proof/Machine/State.lean ====
section
/-! DEFINITION. The state of the block: the buffer and the eight registers (spec/10_state.md R10 to R12), and beside them the
model's own input and output lists and reset counter (logs 3, 4, 5). Plain data. -/

namespace Sys2Proof.Machine

/-- The bytes of `BUF` written since reset, addresses strictly rising. An address that is not listed has no value here:
`State.bufRead` (Machine/Ops.lean) reads its free reset content. -/
abbrev Memory := List Host.Cell

/-- The whole architectural state (10_state.md R10), and the model's own fields. -/
structure State where
  /-- Register 0, the `checksum` field of the frame last encoded or decoded (R13). -/
  cks : Word
  /-- Register 1, the `sequence` field (R14). -/
  seq : Word
  /-- Register 2, the `command` field as a word (R15). -/
  cmd : Word
  /-- Register 3, the `offset` field (R16). -/
  off : Word
  /-- Register 4, the payload length in bytes (R17). -/
  plen : Word
  /-- Register 5, the total frame length in bytes (R18). -/
  len : Word
  /-- Register 6, the raw CRC register (R19). -/
  crc : Word
  /-- Register 7, the flags (R21); its fields are read and written in Machine/Flags.lean. -/
  status : Word
  /-- The frame buffer `BUF` (R11). -/
  buf : Memory
  /-- MODEL'S OWN (log 3): how many reset events have been served. -/
  epoch : Nat
  /-- MODEL'S OWN (log 4): what the host is going to issue, oldest first. -/
  inputs : List Input
  /-- MODEL'S OWN (log 4): the responses given so far, oldest first (70_reset_and_hazards.md R184). -/
  responses : List Response
  /-- MODEL'S OWN (log 5): the classes given so far for command words presented on their own, oldest first. -/
  classes : List CmdClass
deriving DecidableEq, Repr

/-- Reasons for a fault. There are none: a failing operation does not trap (60_exceptions.md R155) and every request is answered
(70_reset_and_hazards.md R182), so no constructor is raised by anyone. -/
inductive Fault where
deriving DecidableEq, Repr

/-- Reasons for a refusal. -/
inductive Refusal where
  /-- An arm of `exec` that has no meaning yet. No arm of this model raises it. Safe: it only stops a run. -/
  | notModelled (mnemonic : String)
deriving DecidableEq, Repr

/-- The outcome of a step of this machine. -/
abbrev Out := Host.Outcome State Fault Refusal

/-- The machine right after reset (10_state.md R31, 70_reset_and_hazards.md R170): `CRC` is `CRC_INIT`, every other register 0,
no byte of `BUF` has been written. The model's own fields are empty (DESIGN CHOICE, logs 3, 4, 5). -/
def State.reset : State where
  cks := 0
  seq := 0
  cmd := 0
  off := 0
  plen := 0
  len := 0
  crc := Config.hw.crcInit
  status := 0
  buf := []
  epoch := 0
  inputs := []
  responses := []
  classes := []

end Sys2Proof.Machine
end

