-- ==== Sys2Proof/Machine/Flags.lean ====
section
/-! DEFINITION. The `STATUS` register's fields (spec/10_state.md R21 to R26): reading a field, writing a field with the other
bits unchanged (`STATUS.F <- v`, 00_scope.md section 5). -/

namespace Sys2Proof.Machine

/-! ### Bit fields of a word -/

/-- Ones in the `n` bits from bit `lo` up. -/
def fieldMask (lo n : Nat) : Word := (BitVec.allOnes n).setWidth 32 <<< lo

/-- The field of `n` bits from bit `lo` up. -/
def getField (w : Word) (lo n : Nat) : BitVec n := w.extractLsb' lo n

/-- `w` with the field of `n` bits from bit `lo` up replaced by `v`. -/
def putField (w : Word) (lo n : Nat) (v : BitVec n) : Word :=
  (w &&& ~~~(fieldMask lo n)) ||| (v.setWidth 32 <<< lo)

/-! ### The fields of STATUS (R21) -/

/-- `ERR`, bits 3:0 (R22). -/
def statusErr (w : Word) : BitVec 4 := getField w 0 4

/-- `CRC_OK`, bit 4 (R23). -/
def statusCrcOk (w : Word) : Bool := getField w 4 1 == 1#1

/-- `CLASS`, bits 10:8 (R24). -/
def statusClass (w : Word) : BitVec 3 := getField w 8 3

/-- `HERR`, bit 15 (R25). -/
def statusHerr (w : Word) : Bool := getField w 15 1 == 1#1

/-- The reserved bits 7:5, 14:11 and 31:16 (R26), the other bits cleared. -/
def statusReserved (w : Word) : Word := w &&& (fieldMask 5 3 ||| fieldMask 11 4 ||| fieldMask 16 16)

/-! ### Writing one field of STATUS -/

/-- `STATUS.ERR <- c`. -/
def State.setErr (s : State) (c : ResultCode) : State := { s with status := putField s.status 0 4 c.number }

/-- `STATUS.CRC_OK <- b`. -/
def State.setCrcOk (s : State) (b : Bool) : State := { s with status := putField s.status 4 1 (BitVec.ofBool b) }

/-- `STATUS.CLASS <- k`. -/
def State.setClass (s : State) (k : CmdClass) : State := { s with status := putField s.status 8 3 k.number }

/-- `STATUS.HERR <- b`. -/
def State.setHerr (s : State) (b : Bool) : State := { s with status := putField s.status 15 1 (BitVec.ofBool b) }

end Sys2Proof.Machine
end

