-- ==== Sys2Proof/Machine/Operands.lean ====
section
/-! DEFINITION. Operand forms: the byte order of header fields (spec/30_encoding.md R62 to R64), the places of the header
fields (R60, 20_memory.md R49), classification of command words (R67), register numbers (10_state.md R12), lengths
(41_codec.md R112: natural numbers, no wrap). -/

namespace Sys2Proof.Machine

/-! ### Field assembly -/

/-- `v[31:24], v[23:16], v[15:8], v[7:0]`. -/
def bytesBE (v : Word) : List Byte :=
  [v.extractLsb' 24 8, v.extractLsb' 16 8, v.extractLsb' 8 8, v.extractLsb' 0 8]

/-- `b0<<24 | b1<<16 | b2<<8 | b3`. -/
def joinBE (b0 b1 b2 b3 : Byte) : Word := b0 ++ b1 ++ b2 ++ b3

/-- `enc32(v)` (R62). -/
def enc32 (cfg : Config) (v : Word) : List Byte :=
  match cfg.endian with
  | .be => bytesBE v
  | .le => (bytesBE v).reverse

/-- `dec32(b0, b1, b2, b3)` (R63). -/
def dec32 (cfg : Config) (b0 b1 b2 b3 : Byte) : Word :=
  match cfg.endian with
  | .be => joinBE b0 b1 b2 b3
  | .le => joinBE b3 b2 b1 b0

/-- `tagbytes(v)` (R64), the same under both byte orders. -/
def tagbytes (v : Word) : List Byte := bytesBE v

/-- The command word of four command bytes (R64), the same under both byte orders. -/
def tagword (b0 b1 b2 b3 : Byte) : Word := joinBE b0 b1 b2 b3

/-! ### Places of the header fields (R60, R49: four fields of `FIELD` bytes in this order) -/

/-- The first byte of `checksum`. -/
def checksumAt (_ : Config) : Nat := 0

/-- The first byte of `sequence`, where the checksum's coverage begins (R71). -/
def sequenceAt (cfg : Config) : Nat := cfg.field

/-- The first byte of `command`. -/
def commandAt (cfg : Config) : Nat := 2 * cfg.field

/-- The first byte of `offset`. -/
def offsetAt (cfg : Config) : Nat := 3 * cfg.field

/-! ### Classification (R67, R68) -/

/-- `classify(v)`: exact match on all 32 bits. -/
def classify (cfg : Config) (v : Word) : CmdClass :=
  if v = cfg.tagName then .name
  else if v = cfg.tagSize then .size
  else if v = cfg.tagHash then .hash
  else if v = cfg.tagData then .data
  else if v = cfg.tagStop then .stop
  else .unknown

/-! ### Register numbers (10_state.md R12) -/

/-- The eight registers. -/
inductive Reg where
  | cks
  | seq
  | cmd
  | off
  | plen
  | len
  | crc
  | status
deriving DecidableEq, Repr

/-- The registers in the order of their numbers. -/
def regOrder : List Reg := [.cks, .seq, .cmd, .off, .plen, .len, .crc, .status]

/-- The register an `addr` field names, none for `addr >= 8` (all 16 bits are compared, 30_encoding.md R75). -/
def regOfAddr (cfg : Config) (a : Addr) : Option Reg :=
  if a.toNat < cfg.nreg then regOrder[a.toNat]? else none

/-- Read only to the host: `CKS`, `CRC`, `STATUS` (42_access_system.md R132). -/
def regReadOnly : Reg → Bool
  | .cks | .crc | .status => true
  | .seq | .cmd | .off | .plen | .len => false

/-- `x[i]` (R12). -/
def State.readReg (s : State) : Reg → Word
  | .cks => s.cks
  | .seq => s.seq
  | .cmd => s.cmd
  | .off => s.off
  | .plen => s.plen
  | .len => s.len
  | .crc => s.crc
  | .status => s.status

/-- `x[i] <- v` (R12). -/
def State.writeReg (s : State) (r : Reg) (v : Word) : State :=
  match r with
  | .cks => { s with cks := v }
  | .seq => { s with seq := v }
  | .cmd => { s with cmd := v }
  | .off => { s with off := v }
  | .plen => { s with plen := v }
  | .len => { s with len := v }
  | .crc => { s with crc := v }
  | .status => { s with status := v }

/-! ### Lengths (R112) -/

/-- `16 + PLEN`, a natural number. -/
def encLength (cfg : Config) (s : State) : Nat := cfg.hdr + s.plen.toNat

/-- The length check of `DEC`, `VFY` and `CRCP` (60_exceptions.md R153): none when `16 <= LEN <= 1024`. -/
def lengthError (cfg : Config) (s : State) : Option ResultCode :=
  if s.len.toNat < cfg.hdr then some .tooShort
  else if cfg.maxFrame < s.len.toNat then some .oversized
  else none

end Sys2Proof.Machine
end

