-- ==== Sys2Proof/Machine/Ops.lean ====
section
/-! DEFINITION. The named operations every meaning is written in: the buffer, responses and failures (the block's form of an
exception, spec/60_exceptions.md R155: no trap), the CRC unit over a frame, header building and extraction, the host channel. -/

namespace Sys2Proof.Machine

/-! ### Memory: a list of written bytes in canonical form -/

/-- The byte a written address holds. -/
def Memory.get? : Memory → Nat → Option Byte
  | [], _ => none
  | (x, y) :: m, a => if x = a then some y else Memory.get? m a

/-- Write one byte, addresses kept strictly rising. -/
def Memory.set : Memory → Nat → Byte → Memory
  | [], a, b => [(a, b)]
  | (x, y) :: m, a, b =>
    if a < x then (a, b) :: (x, y) :: m
    else if a = x then (a, b) :: m
    else (x, y) :: Memory.set m a b

/-- Write a byte sequence in ascending address order (`MemWrite`, 00_scope.md section 5). -/
def Memory.setAll : Memory → Nat → List Byte → Memory
  | m, _, [] => m
  | m, a, b :: bs => Memory.setAll (Memory.set m a b) (a + 1) bs

/-- Strictly rising from `lo` up, and every address below `hi`. -/
def Memory.risingFrom : Nat → Nat → Memory → Bool
  | _, _, [] => true
  | lo, hi, (x, _) :: m => decide (lo ≤ x) && decide (x < hi) && Memory.risingFrom (x + 1) hi m

/-- The canonical form: strictly rising addresses, all of them bytes of `BUF` (10_state.md R11: 0 to 1023). An unlisted address
has no value, so no entry can repeat one. -/
def Memory.wf (m : Memory) : Bool := Memory.risingFrom 0 Config.hw.maxFrame m

/-! ### The buffer -/

/-- `BUF[a]`: the byte last written, or the free reset content (10_state.md R31, U2). -/
def State.bufRead (s : State) (a : Nat) : Byte :=
  match Memory.get? s.buf a with
  | some b => b
  | none => Config.bufResetByte s.epoch a

/-- `MemRead(a, n)`: the bytes `BUF[a..a+n-1]` in ascending order (00_scope.md section 5). -/
def State.memRead (s : State) (a n : Nat) : List Byte := (List.range' a n).map s.bufRead

/-- `MemWrite(a, 1, b)`. -/
def State.bufWrite (s : State) (a : Nat) (b : Byte) : State := { s with buf := Memory.set s.buf a b }

/-- `MemWrite(a, n, bytes)`. -/
def State.memWrite (s : State) (a : Nat) (bs : List Byte) : State := { s with buf := Memory.setAll s.buf a bs }

/-- A numeric header field, assembled from four single bytes (20_memory.md R45, 30_encoding.md R63). -/
def State.readField (cfg : Config) (s : State) (a : Nat) : Word :=
  dec32 cfg (s.bufRead a) (s.bufRead (a + 1)) (s.bufRead (a + 2)) (s.bufRead (a + 3))

/-- The command field as a word (30_encoding.md R64). -/
def State.readTag (s : State) (a : Nat) : Word :=
  tagword (s.bufRead a) (s.bufRead (a + 1)) (s.bufRead (a + 2)) (s.bufRead (a + 3))

/-! ### Responses and failures -/

/-- `rsp <- (c, d)` (30_encoding.md R73). -/
def State.respond (s : State) (c : ResultCode) (d : Word) : State := { s with responses := s.responses ++ [⟨c, d⟩] }

/-- `fail c`: the operation ends with the code and datum 0, after exactly the writes made before it (60_exceptions.md R155). -/
def fail (c : ResultCode) (s : State) : Out := .next (s.respond c 0)

/-- A misused request (codes 4 to 6): `STATUS.HERR <- 1; fail c` (60_exceptions.md R150). -/
def misuse (c : ResultCode) (s : State) : Out := fail c (s.setHerr true)

/-- What every codec operation writes into `STATUS` (10_state.md R22, R23): `ERR <- c; CRC_OK <- ok`. -/
def State.setVerdict (s : State) (c : ResultCode) (ok : Bool) : State := (s.setErr c).setCrcOk ok

/-! ### The CRC unit over the frame in the buffer -/

/-- `BUF[4..LEN-1]`, the bytes the checksum covers (30_encoding.md R71). -/
def State.covered (cfg : Config) (s : State) : List Byte :=
  s.memRead (sequenceAt cfg) (s.len.toNat - sequenceAt cfg)

/-- `CRC <- v` (10_state.md R19). -/
def State.setCrc (s : State) (v : Word) : State := { s with crc := v }

/-- `CRC <- crc_raw(BUF[4..LEN-1])` (40_crc.md R92). -/
def State.absorbFrame (cfg : Config) (s : State) : State := { s with crc := crcRaw cfg (s.covered cfg) }

/-- What a `VFY` that finds a mismatch has done to `CRC`: written it (R119), or kept it under the other reading (R155; log 7). -/
def State.absorbMismatch (cfg : Config) (s : State) : State := if cfg.mismatchKeepsCrc then s else s.absorbFrame cfg

/-- `CRC xor CRC_XOROUT`, the checksum of the bytes absorbed so far (10_state.md R19). -/
def State.checksum (cfg : Config) (s : State) : Word := s.crc ^^^ cfg.crcXorOut

/-! ### Header building and extraction -/

/-- The three writes of `BUF[4..15]` (41_codec.md R113). -/
def State.buildHeader (cfg : Config) (s : State) : State :=
  ((s.memWrite (sequenceAt cfg) (enc32 cfg s.seq)).memWrite (commandAt cfg) (tagbytes s.cmd)).memWrite (offsetAt cfg)
    (enc32 cfg s.off)

/-- `LEN <- 16 + PLEN` (R113). -/
def State.setEncLength (cfg : Config) (s : State) : State := { s with len := BitVec.ofNat 32 (encLength cfg s) }

/-- `CKS <- CRC xor CRC_XOROUT; MemWrite(0, 4, enc32(CKS))` (R113). -/
def State.storeChecksum (cfg : Config) (s : State) : State :=
  { s with cks := s.checksum cfg }.memWrite (checksumAt cfg) (enc32 cfg (s.checksum cfg))

/-- The five register writes of a successful `DEC` (41_codec.md R116). -/
def State.extractFields (cfg : Config) (s : State) : State :=
  { s with
    cks := s.readField cfg (checksumAt cfg)
    seq := s.readField cfg (sequenceAt cfg)
    cmd := s.readTag (commandAt cfg)
    off := s.readField cfg (offsetAt cfg)
    plen := BitVec.ofNat 32 (s.len.toNat - cfg.hdr) }

/-! ### Reset -/

/-- The register values of 10_state.md R31, the same after reset and after `CLR`; the buffer is not touched. -/
def State.resetRegisters (cfg : Config) (s : State) : State :=
  { s with cks := 0, seq := 0, cmd := 0, off := 0, plen := 0, len := 0, crc := cfg.crcInit, status := 0 }

/-- The reset event (70_reset_and_hazards.md R170): the registers take their reset values and every byte of `BUF` becomes
unspecified, here a fresh free value (R171, U16; logs 3, 6). -/
def State.resetEvent (cfg : Config) (s : State) : State :=
  { s.resetRegisters cfg with buf := [], epoch := s.epoch + 1 }

/-! ### The classifier (30_encoding.md R67, R82; log 5) -/

/-- The classifier answers the class of a command word; nothing else changes. -/
def classifyWord (cfg : Config) (v : Word) (s : State) : Out :=
  .next { s with classes := s.classes ++ [classify cfg v] }

/-- What a word that names no row of the opcode table does: a reserved operation code is the illegal request (R76), a command
word that is no tag has class 0 (R67). -/
def rejected (r : Reject) (s : State) : Out :=
  match r with
  | .reservedOp _ => misuse .illegalOp s
  | .unknownTag v => classifyWord Config.hw v s

/-! ### The host channel (20_memory.md R50) -/

/-- The input the block accepts next, and the state with it taken off the list. -/
def State.fetch (s : State) : Option (Input × State) :=
  match s.inputs with
  | [] => none
  | x :: rest => some (x, { s with inputs := rest })

end Sys2Proof.Machine
end

