-- ==== Sys2Proof/Machine/Access.lean ====
section
/-! DEFINITION. Buffer and register access: `WRB`, `RDB`, `WRR`, `RDR` (spec/42_access_system.md R130 to R133). -/

namespace Sys2Proof.Machine

/-- `WRB` (R130) of a block built with `cfg`. -/
def execWrbWith (cfg : Config) (a : Addr) (b : Byte) (s : State) : Out :=
  if cfg.maxFrame ≤ a.toNat then misuse .badAddress s else .next ((s.bufWrite a.toNat b).respond .none 0)

/-- `WRB` (R130). -/
def execWrb (a : Addr) (b : Byte) (s : State) : Out := execWrbWith Config.hw a b s

/-- `RDB` (R131) of a block built with `cfg`. -/
def execRdbWith (cfg : Config) (a : Addr) (s : State) : Out :=
  if cfg.maxFrame ≤ a.toNat then misuse .badAddress s else .next (s.respond .none ((s.bufRead a.toNat).setWidth 32))

/-- `RDB` (R131). -/
def execRdb (a : Addr) (s : State) : Out := execRdbWith Config.hw a s

/-- `WRR` (R132) of a block built with `cfg`: the range check before the access-right check (60_exceptions.md R153). -/
def execWrrWith (cfg : Config) (a : Addr) (d : Word) (s : State) : Out :=
  match regOfAddr cfg a with
  | none => misuse .badAddress s
  | some r => if regReadOnly r then misuse .readOnly s else .next ((s.writeReg r d).respond .none 0)

/-- `WRR` (R132). -/
def execWrr (a : Addr) (d : Word) (s : State) : Out := execWrrWith Config.hw a d s

/-- `RDR` (R133) of a block built with `cfg`. -/
def execRdrWith (cfg : Config) (a : Addr) (s : State) : Out :=
  match regOfAddr cfg a with
  | none => misuse .badAddress s
  | some r => .next (s.respond .none (s.readReg r))

/-- `RDR` (R133). -/
def execRdr (a : Addr) (s : State) : Out := execRdrWith Config.hw a s

end Sys2Proof.Machine
end

