-- ==== Sys2Proof/Machine/Codec.lean ====
section
/-! DEFINITION. The frame codec: `ENC`, `DEC`, `VFY` (spec/41_codec.md R113, R116, R119). -/

namespace Sys2Proof.Machine

/-- The frame in the buffer after a successful `ENC`: header, length, checksum (R113). -/
def State.encodeFrame (cfg : Config) (s : State) : State :=
  (((s.buildHeader cfg).setEncLength cfg).absorbFrame cfg).storeChecksum cfg

/-- `ENC` (R113) of a block built with `cfg`. -/
def execEncWith (cfg : Config) (s : State) : Out :=
  if cfg.maxFrame < encLength cfg s then fail .oversized ((s.setVerdict .oversized false).setClass .unknown)
  else
    .next ((((s.encodeFrame cfg).setVerdict .none false).setClass (classify cfg s.cmd)).respond .none (s.encodeFrame cfg).cks)

/-- `ENC` (R113). -/
def execEnc (s : State) : Out := execEncWith Config.hw s

/-- `DEC` (R116) of a block built with `cfg`: the class is that of the command just extracted. -/
def execDecWith (cfg : Config) (s : State) : Out :=
  match lengthError cfg s with
  | some c => fail c ((s.setVerdict c false).setClass .unknown)
  | none =>
    .next ((((s.extractFields cfg).setVerdict .none false).setClass (classify cfg (s.extractFields cfg).cmd)).respond .none
      ((classify cfg (s.extractFields cfg).cmd).number.setWidth 32))

/-- `DEC` (R116). -/
def execDec (s : State) : Out := execDecWith Config.hw s

/-- `VFY` (R119) of a block built with `cfg`: the stored checksum is read from `BUF[0..3]`, not from `CKS`; on a
mismatch `CRC` is written too, or kept under the other reading of the spec (log 7). -/
def execVfyWith (cfg : Config) (s : State) : Out :=
  match lengthError cfg s with
  | some c => fail c (s.setVerdict c false)
  | none =>
    if (s.absorbFrame cfg).checksum cfg = s.readField cfg (checksumAt cfg) then
      .next (((s.absorbFrame cfg).setVerdict .none true).respond .none 1)
    else fail .checksumMismatch ((s.absorbMismatch cfg).setVerdict .checksumMismatch false)

/-- `VFY` (R119). -/
def execVfy (s : State) : Out := execVfyWith Config.hw s

end Sys2Proof.Machine
end

