-- ==== Sys2Proof/Machine/CrcUnit.lean ====
section
/-! DEFINITION. The operations of the CRC unit: `CRCI`, `CRCB`, `CRCF`, `CRCP` (spec/40_crc.md R101 to R104). -/

namespace Sys2Proof.Machine

/-- `CRCI` (R101) of a block built with `cfg`. -/
def execCrciWith (cfg : Config) (s : State) : Out := .next ((s.setCrc cfg.crcInit).respond .none 0)

/-- `CRCI` (R101). -/
def execCrci (s : State) : Out := execCrciWith Config.hw s

/-- `CRCB` (R102) of a block built with `cfg`. -/
def execCrcbWith (cfg : Config) (b : Byte) (s : State) : Out := .next ((s.setCrc (crcByte cfg s.crc b)).respond .none 0)

/-- `CRCB` (R102). -/
def execCrcb (b : Byte) (s : State) : Out := execCrcbWith Config.hw b s

/-- `CRCF` (R103) of a block built with `cfg`. -/
def execCrcfWith (cfg : Config) (s : State) : Out := .next (s.respond .none (s.checksum cfg))

/-- `CRCF` (R103). -/
def execCrcf (s : State) : Out := execCrcfWith Config.hw s

/-- `CRCP` (R104) of a block built with `cfg`. -/
def execCrcpWith (cfg : Config) (s : State) : Out :=
  match lengthError cfg s with
  | some c => fail c (s.setVerdict c false)
  | none => .next (((s.absorbFrame cfg).setVerdict .none false).respond .none ((s.absorbFrame cfg).checksum cfg))

/-- `CRCP` (R104). -/
def execCrcp (s : State) : Out := execCrcpWith Config.hw s

end Sys2Proof.Machine
end

