-- ==== Sys2Proof/Machine/System.lean ====
section
/-! DEFINITION. The system operations `NOP` and `CLR` (spec/42_access_system.md R134, R135). -/

namespace Sys2Proof.Machine

/-- `NOP` (R134): answer `(NONE, 0)`, no state change. -/
def execNop (s : State) : Out := .next (s.respond .none 0)

/-- `CLR` (R135) of a block built with `cfg`. -/
def execClrWith (cfg : Config) (s : State) : Out := .next ((s.resetRegisters cfg).respond .none 0)

/-- `CLR` (R135). -/
def execClr (s : State) : Out := execClrWith Config.hw s

end Sys2Proof.Machine
end

