-- ==== Sys2Proof/Machine/Tags.lean ====
section
/-! DEFINITION. The five command tags as rows of the opcode table (spec/30_encoding.md R66, R67, R82). A tag selects no behaviour
beyond its class number: run on its own it makes the classifier answer that class and changes nothing of the block (log 5).
Inside `ENC` and `DEC` the same classification is the function `classify`. -/

namespace Sys2Proof.Machine

/-- `NAME` (R67). -/
def execName (s : State) : Out := classifyWord Config.hw Config.hw.tagName s

/-- `SIZE` (R67). -/
def execSize (s : State) : Out := classifyWord Config.hw Config.hw.tagSize s

/-- `HASH` (R67). -/
def execHash (s : State) : Out := classifyWord Config.hw Config.hw.tagHash s

/-- `DATA` (R67). -/
def execData (s : State) : Out := classifyWord Config.hw Config.hw.tagData s

/-- `STOP` (R67). -/
def execStop (s : State) : Out := classifyWord Config.hw Config.hw.tagStop s

end Sys2Proof.Machine
end

