-- ==== Sys2Proof/Machine/Dispatch.lean ====
section
/-! DEFINITION. One arm per row of spec/opcode_table.json. -/

namespace Sys2Proof.Machine

def exec (i : Instr) (s : State) : Host.Outcome State Fault Refusal :=
  match i with
  | .nop => Sys2Proof.Machine.execNop s
  | .clr => Sys2Proof.Machine.execClr s
  | .crci => Sys2Proof.Machine.execCrci s
  | .crcb b => Sys2Proof.Machine.execCrcb b s
  | .crcf => Sys2Proof.Machine.execCrcf s
  | .crcp => Sys2Proof.Machine.execCrcp s
  | .wrb a b => Sys2Proof.Machine.execWrb a b s
  | .rdb a => Sys2Proof.Machine.execRdb a s
  | .wrr a d => Sys2Proof.Machine.execWrr a d s
  | .rdr a => Sys2Proof.Machine.execRdr a s
  | .enc => Sys2Proof.Machine.execEnc s
  | .dec => Sys2Proof.Machine.execDec s
  | .vfy => Sys2Proof.Machine.execVfy s
  | .name => Sys2Proof.Machine.execName s
  | .size => Sys2Proof.Machine.execSize s
  | .hash => Sys2Proof.Machine.execHash s
  | .data => Sys2Proof.Machine.execData s
  | .stop => Sys2Proof.Machine.execStop s

end Sys2Proof.Machine
end

