-- ==== Sys2Proof/Machine/Step.lean ====
section
/-! DEFINITION. One step: the block takes the next input of the host and serves it to completion (spec/10_state.md R29,
20_memory.md R50); with no input pending it is idle and keeps its state (60_exceptions.md R162). -/

namespace Sys2Proof.Machine

/-- Serving one input: the reset event, or a word, decoded and run; a word that names no row does what R76 and R67 say. -/
def serve (x : Input) (s : State) : Host.Outcome State Fault Refusal :=
  match x with
  | .reset => .next (s.resetEvent Config.hw)
  | .word c =>
    match decode c with
    | .ok i => exec i s
    | .error r => rejected r s

/-- One step of the block. -/
def step (s : State) : Host.Outcome State Fault Refusal :=
  match s.fetch with
  | none => .next s
  | some (x, t) => serve x t

/-- The state in which the host issues the given table word next, before everything it was going to issue (log 4). -/
def State.withFetchWord (s : State) (nbits w : Nat) : State :=
  { s with inputs := .word (codeOfTableWord nbits w) :: s.inputs }

end Sys2Proof.Machine
end

