-- ==== Sys2Proof/Machine/Pseudo.lean ====
section
/-! DEFINITION. The notation and the pseudo-operations of spec/30_encoding.md part C (R79, R80): each pseudo-operation is the
list of requests it expands to. A program is a finite list of requests (R79); `programInputs` is the host issuing one. -/

namespace Sys2Proof.Machine

/-- Register numbers as `addr` fields (10_state.md R12). -/
def regAddr : Reg → Addr
  | .cks => 0
  | .seq => 1
  | .cmd => 2
  | .off => 3
  | .plen => 4
  | .len => 5
  | .crc => 6
  | .status => 7

/-- The requests `WRB a, b0; WRB a+1, b1; ...`, addresses counted in the natural numbers. -/
def writesFrom : Nat → List Byte → List Instr
  | _, [] => []
  | a, b :: bs => .wrb (BitVec.ofNat 16 a) b :: writesFrom (a + 1) bs

/-- `LDBYTES a, b0 b1 ... b(n-1)`. An address `a+k` above `0xFFFF` is no `addr` field (R72, R75: nothing wraps), so a list that
would need one has no expansion (DESIGN CHOICE, log 8). -/
def ldbytes (a : Addr) (bs : List Byte) : Option (List Instr) :=
  if a.toNat + bs.length ≤ 65536 then some (writesFrom a.toNat bs) else none

/-- The ASCII code of a character, none for a character outside ASCII (DESIGN CHOICE, log 8). -/
def asciiByte (c : Char) : Option Byte :=
  if c.toNat < 128 then some (BitVec.ofNat 8 c.toNat) else none

/-- The ASCII bytes of a text, none if a character of it has none (DESIGN CHOICE, log 8). -/
def asciiBytes (t : String) : Option (List Byte) := t.toList.mapM asciiByte

/-- `LDSTR a, "text"`. -/
def ldstr (a : Addr) (t : String) : Option (List Instr) := (asciiBytes t).bind (ldbytes a)

/-- The word `v` of `"TAG"`: the first character's code in bits 31:24 down to the fourth's in bits 7:0; none unless the text has
exactly four characters, all ASCII (R80 asks for four; log 8). -/
def tagOfText (t : String) : Option Word :=
  match asciiBytes t with
  | some [b0, b1, b2, b3] => some (tagword b0 b1 b2 b3)
  | _ => none

/-- `WRR CMD, v`. -/
def setcmdWord (v : Word) : List Instr := [.wrr (regAddr .cmd) v]

/-- `SETCMD "TAG"`. -/
def setcmd (tag : String) : Option (List Instr) := (tagOfText tag).map setcmdWord

/-- The expansion of `ENCODE` once the word `v` of its tag is known. -/
def encodeWithWord (seq v off n : Word) : List Instr :=
  [.wrr (regAddr .seq) seq] ++ setcmdWord v ++ [.wrr (regAddr .off) off, .wrr (regAddr .plen) n, .enc]

/-- `ENCODE seq, "TAG", off, n`: the source's `Encode`; the payload is already at `BUF[16..15+n]`. -/
def encodeOp (seq : Word) (tag : String) (off n : Word) : Option (List Instr) :=
  (tagOfText tag).map fun v => encodeWithWord seq v off n

/-- `LOADFRAME b0 ... b(n-1)`. -/
def loadframe (bs : List Byte) : Option (List Instr) :=
  (ldbytes 0 bs).map fun p => p ++ [.wrr (regAddr .len) (BitVec.ofNat 32 bs.length)]

/-- `DECODE`: the source's `Decode` followed by `VerifyChecksum` (90_conflicts.md C7: `DEC` first). -/
def decodeOp : List Instr := [.dec, .vfy]

/-- `CRCS b0 ... b(n-1)`. -/
def crcs (bs : List Byte) : List Instr := [.crci] ++ bs.map Instr.crcb ++ [.crcf]

/-- The inputs of a host that issues these instructions, ignored fields 0 (R75). -/
def programInputs (p : List Instr) : List Input := p.map fun i => .word (encode i)

/-- The line of R79 that writes an instruction; a tag is written as its four characters. Numbers are decimal. -/
def instrText : Instr → String
  | .nop => "NOP"
  | .clr => "CLR"
  | .crci => "CRCI"
  | .crcb b => "CRCB " ++ toString b.toNat
  | .crcf => "CRCF"
  | .crcp => "CRCP"
  | .wrb a b => "WRB " ++ toString a.toNat ++ ", " ++ toString b.toNat
  | .rdb a => "RDB " ++ toString a.toNat
  | .wrr a d => "WRR " ++ toString a.toNat ++ ", " ++ toString d.toNat
  | .rdr a => "RDR " ++ toString a.toNat
  | .enc => "ENC"
  | .dec => "DEC"
  | .vfy => "VFY"
  | .name => "NAME"
  | .size => "SIZE"
  | .hash => "HASH"
  | .data => "DATA"
  | .stop => "STOP"

end Sys2Proof.Machine
end

