-- ==== Sys2Proof/Safety.lean ====
section
/-! DEFINITION. The terms claims are stated in: the invariant of the state, the host's contract, frames (what stays unchanged),
and what a response leaves in the host channel. -/

namespace Sys2Proof.Machine

/-! ### Frames -/

/-- Every register outside `l` keeps its value. -/
def RegsSameExcept (l : List Reg) (s t : State) : Prop := ∀ r, r ∉ l → t.readReg r = s.readReg r

/-- Every byte of the buffer reads as before. -/
def BufSame (s t : State) : Prop := ∀ a, t.bufRead a = s.bufRead a

/-- Every byte outside the `n` bytes from `lo` up reads as before. -/
def BufSameOutside (lo n : Nat) (s t : State) : Prop := ∀ a, ¬(lo ≤ a ∧ a < lo + n) → t.bufRead a = s.bufRead a

/-- `STATUS` has these four field values, and its reserved bits are as in `old`. The four fields and the reserved bits are all 32
bits of the register (10_state.md R21). -/
def StatusHas (w old : Word) (err : ResultCode) (ok : Bool) (cls : BitVec 3) (herr : Bool) : Prop :=
  statusErr w = err.number ∧ statusCrcOk w = ok ∧ statusClass w = cls ∧ statusHerr w = herr ∧
    statusReserved w = statusReserved old

/-- `STATUS` is `old` with `HERR` set: what a misused request does to it (60_exceptions.md R150, R155). -/
def HerrRaised (w old : Word) : Prop :=
  statusHerr w = true ∧ statusErr w = statusErr old ∧ statusCrcOk w = statusCrcOk old ∧ statusClass w = statusClass old ∧
    statusReserved w = statusReserved old

/-- The request was answered with `(c, d)`, and nothing else happened in the host channel. -/
def Answered (s t : State) (c : ResultCode) (d : Word) : Prop :=
  t.responses = s.responses ++ [⟨c, d⟩] ∧ t.inputs = s.inputs ∧ t.classes = s.classes ∧ t.epoch = s.epoch

/-- Two states no operation can tell apart by registers or by the bytes for which `P` holds. -/
def AgreeOn (P : Nat → Prop) (s t : State) : Prop :=
  (∀ r, t.readReg r = s.readReg r) ∧ (∀ a, P a → t.bufRead a = s.bufRead a)

/-! ### The invariant -/

/-- What holds in every state a run reaches: the buffer list is in canonical form (log 2); the reserved bits of `STATUS` read 0
(10_state.md R26); `ERR` is at most 3 (R22); `CLASS` is at most 5 (R21); `CRC_OK` is set only beside `ERR` = `NONE` (R23). -/
def StateInv (s : State) : Prop :=
  Memory.wf s.buf = true ∧ statusReserved s.status = 0 ∧ (statusErr s.status).toNat ≤ 3 ∧
    (statusClass s.status).toNat ≤ 5 ∧ (statusCrcOk s.status = true → statusErr s.status = 0)

/-! ### Safe runs -/

/-- The host has not misused the interface since the last reset or `CLR` (10_state.md R25). -/
def ContractKept (s : State) : Prop := statusHerr s.status = false

/-- The last codec operation was a matching `VFY` (10_state.md R23); only then may a received frame be acted on
(70_reset_and_hazards.md R175). -/
def Trusted (s : State) : Prop := statusCrcOk s.status = true

/-- The frame's checksum field holds the checksum of the rest of the frame of length `LEN` (41_codec.md R120). -/
def FrameVerifies (cfg : Config) (s : State) : Prop :=
  crc32 cfg (s.covered cfg) = s.readField cfg (checksumAt cfg)

/-- A legal frame length (30_encoding.md R61). -/
def LengthLegal (s : State) : Prop := 16 ≤ s.len.toNat ∧ s.len.toNat ≤ 1024

/-! ### The CRC's view of a byte sequence -/

/-- Bit `j` of a byte sequence in the order the CRC absorbs bits: first byte first, bit 0 of a byte first (40_crc.md R91, R97). -/
def absorbedBit (bytes : List Byte) (j : Nat) : Bool := (bytes.getD (j / 8) 0).getLsbD (j % 8)

/-- The word with its four bytes in the opposite order (20_memory.md R43). -/
def swapBytes (v : Word) : Word :=
  v.extractLsb' 0 8 ++ v.extractLsb' 8 8 ++ v.extractLsb' 16 8 ++ v.extractLsb' 24 8

/-! ### Runs -/

/-- The state after running the block for one step per pending input of program `p`, started with `p` as the only inputs
(70_reset_and_hazards.md R184). -/
def runProgram (p : List Instr) (s : State) : Out :=
  Host.Core.run Sys2Proof.core p.length { s with inputs := programInputs p }

end Sys2Proof.Machine
end

