-- ==== Sys2Proof/Certificates/Slice0/Obligations.lean ====
section
/-! DEFINITION. The statements for the provers, each a rule of spec/ or a consequence of rules. A docstring names the rules; where
a clause rests on the model's own choice it names the log entry. -/

open Sys2Proof Sys2Proof.Machine

/-! ### Encoding -/

/-- Request words written out from the vectors of 95_test_vectors.md (fields of R72), and command words of R66, decode to the
instructions they stand for; ignored bits are ignored (R75), a reserved code and an unknown tag are named. -/
def Obligations.SpecWordsDecode : Prop :=
  decode (.request 0x00FFFFFFFFFFFF#56) = .ok .nop ∧
  decode (.request 0x01000000000000#56) = .ok .clr ∧
  decode (.request 0x110000000001FF#56) = .ok (.crcb 0xFF#8) ∧
  decode (.request 0x111234000000FF#56) = .ok (.crcb 0xFF#8) ∧
  decode (.request 0x13000000000000#56) = .ok .crcp ∧
  decode (.request 0x200010ABCDEF48#56) = .ok (.wrb 16#16 0x48#8) ∧
  decode (.request 0x21FFFF00000000#56) = .ok (.rdb 0xFFFF#16) ∧
  decode (.request 0x220003000003E8#56) = .ok (.wrr 3#16 1000#32) ∧
  decode (.request 0x23000700000000#56) = .ok (.rdr 7#16) ∧
  decode (.request 0x31000000000000#56) = .ok .dec ∧
  decode (.request 0x7F000000000000#56) = .error (.reservedOp 0x7F#8) ∧
  decode (.command 0x44415441#32) = .ok .data ∧
  decode (.command 0x64617461#32) = .error (.unknownTag 0x64617461#32)

/-- Decoding the encoded word of any instruction gives the instruction back, with every operand at every value (R72, R74, R66). -/
def Obligations.DecodeInvertsEncode : Prop := ∀ i : Instr, decode (encode i) = .ok i

/-- The other direction: encoding what a word decodes to gives the word back with exactly the bits that operation ignores
cleared (R75; the `encoding` column of opcode_table.json), and a command word back whole (R68). -/
def Obligations.EncodeKeepsUsedBits : Prop :=
  (∀ (w : ReqWord) (i : Instr), decode (.request w) = .ok i →
    encode i = .request (w &&&
      (if reqOp w = 0x11#8 then 0xFF0000000000FF#56
       else if reqOp w = 0x20#8 then 0xFFFFFF000000FF#56
       else if reqOp w = 0x21#8 then 0xFFFFFF00000000#56
       else if reqOp w = 0x22#8 then 0xFFFFFFFFFFFFFF#56
       else if reqOp w = 0x23#8 then 0xFFFFFF00000000#56
       else 0xFF000000000000#56))) ∧
  (∀ (v : Word) (i : Instr), decode (.command v) = .ok i → encode i = .command v)

/-- R76: the reserved codes are the four ranges, 243 of them; a request is decoded exactly when its code is not reserved; a
request with a reserved code sets `HERR`, answers `(ILLEGAL_OP, 0)` and changes nothing else. -/
def Obligations.ReservedCodesAreIllegal : Prop :=
  (∀ w : ReqWord, (∃ i, decode (.request w) = .ok i) ↔
    ¬((0x02 ≤ (reqOp w).toNat ∧ (reqOp w).toNat ≤ 0x0F) ∨ (0x14 ≤ (reqOp w).toNat ∧ (reqOp w).toNat ≤ 0x1F) ∨
      (0x24 ≤ (reqOp w).toNat ∧ (reqOp w).toNat ≤ 0x2F) ∨ (0x33 ≤ (reqOp w).toNat ∧ (reqOp w).toNat ≤ 0xFF))) ∧
  ((List.range 256).filter fun n => decide ((0x02 ≤ n ∧ n ≤ 0x0F) ∨ (0x14 ≤ n ∧ n ≤ 0x1F) ∨ (0x24 ≤ n ∧ n ≤ 0x2F) ∨
    (0x33 ≤ n ∧ n ≤ 0xFF))).length = 243 ∧
  (∀ (s : State) (w : ReqWord) (rest : List Input) (r : Reject), s.inputs = .word (.request w) :: rest →
    decode (.request w) = .error r →
    ∃ t, step s = .next t ∧ Answered { s with inputs := rest } t .illegalOp 0 ∧ HerrRaised t.status s.status ∧
      RegsSameExcept [.status] s t ∧ BufSame s t)

/-- R62, R63, R64 under both byte orders: the bytes of a field, that `dec32` inverts `enc32` both ways, and that the command
word does not depend on the byte order. -/
def Obligations.FieldBytesInverse : Prop :=
  (∀ v, enc32 Config.hw v = [v.extractLsb' 24 8, v.extractLsb' 16 8, v.extractLsb' 8 8, v.extractLsb' 0 8]) ∧
  (∀ v, enc32 Config.hwLittle v = [v.extractLsb' 0 8, v.extractLsb' 8 8, v.extractLsb' 16 8, v.extractLsb' 24 8]) ∧
  (∀ v, tagbytes v = [v.extractLsb' 24 8, v.extractLsb' 16 8, v.extractLsb' 8 8, v.extractLsb' 0 8]) ∧
  (∀ b0 b1 b2 b3 : Byte, dec32 Config.hw b0 b1 b2 b3 =
    (b0.setWidth 32 <<< 24) ||| (b1.setWidth 32 <<< 16) ||| (b2.setWidth 32 <<< 8) ||| b3.setWidth 32) ∧
  (∀ b0 b1 b2 b3 : Byte, dec32 Config.hwLittle b0 b1 b2 b3 =
    (b3.setWidth 32 <<< 24) ||| (b2.setWidth 32 <<< 16) ||| (b1.setWidth 32 <<< 8) ||| b0.setWidth 32) ∧
  (∀ b0 b1 b2 b3 : Byte, tagword b0 b1 b2 b3 =
    (b0.setWidth 32 <<< 24) ||| (b1.setWidth 32 <<< 16) ||| (b2.setWidth 32 <<< 8) ||| b3.setWidth 32) ∧
  (∀ (cfg : Config) (v : Word), ∃ b0 b1 b2 b3, enc32 cfg v = [b0, b1, b2, b3] ∧ dec32 cfg b0 b1 b2 b3 = v) ∧
  (∀ (cfg : Config) (b0 b1 b2 b3 : Byte), enc32 cfg (dec32 cfg b0 b1 b2 b3) = [b0, b1, b2, b3]) ∧
  (∀ b0 b1 b2 b3 : Byte, tagbytes (tagword b0 b1 b2 b3) = [b0, b1, b2, b3])

/-- R67 and R68: `classify` gives 1 to 5 exactly for the five words of R66 and 0 for every other word; so not for a word in
another case, cut short, or in another byte order. -/
def Obligations.ClassifyIsExact : Prop :=
  (∀ v, (classify Config.hw v).number = 1 ↔ v = 0x4E414D45#32) ∧
  (∀ v, (classify Config.hw v).number = 2 ↔ v = 0x53495A45#32) ∧
  (∀ v, (classify Config.hw v).number = 3 ↔ v = 0x48415348#32) ∧
  (∀ v, (classify Config.hw v).number = 4 ↔ v = 0x44415441#32) ∧
  (∀ v, (classify Config.hw v).number = 5 ↔ v = 0x53544F50#32) ∧
  (∀ v, (classify Config.hw v).number = 0 ↔
    v ≠ 0x4E414D45#32 ∧ v ≠ 0x53495A45#32 ∧ v ≠ 0x48415348#32 ∧ v ≠ 0x44415441#32 ∧ v ≠ 0x53544F50#32)

/-! ### The step -/

/-- A step serves the oldest pending input: a word that decodes runs as `exec` of its instruction, a command word that is no
tag is classified (class 0), the reset event resets, and with nothing pending the state is kept. The input list and a command
word as an input of its own are the model's choice (logs 4, 5). -/
def Obligations.StepRunsTheDecodedInstruction : Prop :=
  (∀ (s : State) (c : Code) (rest : List Input) (i : Instr), s.inputs = .word c :: rest → decode c = .ok i →
    step s = exec i { s with inputs := rest }) ∧
  (∀ (s : State) (v : Word) (rest : List Input) (r : Reject), s.inputs = .word (.command v) :: rest →
    decode (.command v) = .error r → step s = .next { s with inputs := rest, classes := s.classes ++ [.unknown] }) ∧
  (∀ (s : State), s.inputs = [] → step s = .next s) ∧
  (∀ (s : State) (nbits w : Nat) (i : Instr), decodeTableWord nbits w = some i →
    step (s.withFetchWord nbits w) = exec i s)

/-- R30 and R182: the step is total; from every state, whatever the host issues next, the block goes on to a next state. -/
def Obligations.EveryStepAnswers : Prop := ∀ s : State, ∃ t, step s = .next t

/-- R182, R184, R50, on the model's list of pending inputs: running one step per pending input serves all of them and gives exactly
one response per pending request word; nothing pending is left. The model's choice, not the spec's: that the inputs form a list
(log 4), that a command word is an input which adds no response (log 5), and that a reset is an input which adds none, keeps the
responses already given and leaves the later requests pending (log 6: a request a reset abandons in its middle is not modelled). -/
def Obligations.RunAnswersEveryRequest : Prop :=
  ∀ s : State, ∃ t, Host.Core.run core s.inputs.length s = .next t ∧ t.inputs = [] ∧
    t.responses.length =
      s.responses.length + (s.inputs.filter fun x => match x with | .word (.request _) => true | _ => false).length ∧
    s.responses <+: t.responses

/-- R73: every request word, legal or not, gets exactly one response, whose datum is 0 when its code is not `NONE`; the response
word has the code in bits 35:32 and the datum in bits 31:0. -/
def Obligations.OneResponsePerRequest : Prop :=
  (∀ (s : State) (w : ReqWord) (rest : List Input), s.inputs = .word (.request w) :: rest →
    ∃ t c d, step s = .next t ∧ Answered { s with inputs := rest } t c d ∧ (c ≠ .none → d = 0)) ∧
  (∀ r : Response, r.word.extractLsb' 32 4 = r.err.number ∧ r.word.extractLsb' 0 32 = r.data)

/-- R170, R171: the reset event puts every register at its reset value and leaves every byte of `BUF` at a fresh unspecified
value (logs 3, 6: the reset counter and reset only between requests are the model's). -/
def Obligations.ResetEventRule : Prop :=
  ∀ (s : State) (rest : List Input), s.inputs = .reset :: rest →
    ∃ t, step s = .next t ∧ t.cks = 0 ∧ t.seq = 0 ∧ t.cmd = 0 ∧ t.off = 0 ∧ t.plen = 0 ∧ t.len = 0 ∧ t.crc = 0xFFFFFFFF#32 ∧
      t.status = 0 ∧ (∀ a, t.bufRead a = Config.bufResetByte (s.epoch + 1) a) ∧ t.inputs = rest ∧ t.responses = s.responses ∧
      t.classes = s.classes

/-! ### The CRC function -/

/-- R94: `crc_byte` is linear in both arguments jointly, 0 at 0, and for fixed `b` a bijection when bit 31 of the polynomial is 1
(as it is on this hardware), because bit 31 after a bit step tells whether the polynomial was XORed in; hence the difference of
two raw CRCs depends on the error pattern alone. -/
def Obligations.CrcByteLinearBijective : Prop :=
  (∀ cfg c c' b b', crcByte cfg (c ^^^ c') (b ^^^ b') = crcByte cfg c b ^^^ crcByte cfg c' b') ∧
  (∀ cfg, crcByte cfg 0 0 = 0) ∧
  (∀ cfg : Config, cfg.crcPolyR.getLsbD 31 = true → ∀ c, (crcBit cfg c).getLsbD 31 = c.getLsbD 0) ∧
  (∀ cfg : Config, cfg.crcPolyR.getLsbD 31 = true → ∀ b,
    (∀ c c', crcByte cfg c b = crcByte cfg c' b → c = c') ∧ (∀ y, ∃ c, crcByte cfg c b = y)) ∧
  Config.hw.crcPolyR.getLsbD 31 = true ∧
  (∀ (cfg : Config) (s e : List Byte), s.length = e.length →
    crcRaw cfg s ^^^ crcRaw cfg (List.zipWith (· ^^^ ·) s e) = crcFold cfg 0 e)

/-- R95: the printed table is `T[i] = crc_byte(0, i)`, and the byte-at-a-time form by table equals `crc_byte`. -/
def Obligations.CrcTableForm : Prop :=
  crcTable.length = 256 ∧ (∀ i : Byte, crcTable.getD i.toNat 0 = crcByte Config.hw 0 i) ∧
    (∀ c b, crcByteByTable c b = crcByte Config.hw c b)

/-- R96: the most-significant-bit-first form gives the same checksum for every byte sequence. -/
def Obligations.CrcMsbFirstForm : Prop := ∀ bytes, crc32Msb bytes = crc32 Config.hw bytes

/-- R97: two sequences of equal length that differ, and only inside a window of at most 32 consecutive bits in the order the CRC
absorbs them, have different checksums; for this hardware, and for every polynomial of degree 32 with constant term 1. -/
def Obligations.BurstsOf32BitsDetected : Prop :=
  Config.hw.crcPolyR.getLsbD 31 = true ∧
  ∀ (cfg : Config) (s s' : List Byte) (k : Nat), cfg.crcPolyR.getLsbD 31 = true → s.length = s'.length → s ≠ s' →
    (∀ j, (j < k ∨ k + 32 ≤ j) → absorbedBit s j = absorbedBit s' j) → crc32 cfg s ≠ crc32 cfg s'

/-- R105: on a block built little-endian, a frame that verifies has the residue `0xDEBB20E3` when its checksum bytes are absorbed
after the bytes they cover; built big-endian, as this hardware is, no such constant exists. -/
def Obligations.LittleEndianResidue : Prop :=
  (∀ s : State, FrameVerifies Config.hwLittle s →
    crcRaw Config.hwLittle (s.covered Config.hwLittle ++ s.memRead 0 4) = 0xDEBB20E3#32) ∧
  ¬∃ c : Word, ∀ s : State, LengthLegal s → FrameVerifies Config.hw s →
    crcRaw Config.hw (s.covered Config.hw ++ s.memRead 0 4) = c

/-! ### The CRC unit -/

/-- R101, R102, R103: with any ignored fields, `CRCI`, `CRCB` and `CRCF` are decoded from codes 10, 11, 12 and complete from every
state: `CRC <- CRC_INIT`; `CRC <- crc_byte(CRC, data[7:0])`; the response `CRC xor CRC_XOROUT` with no state change. `STATUS` is
not written. -/
def Obligations.CrcStreamOperations : Prop :=
  (∀ (a : Addr) (d : Word), decode (.request (0x10#8 ++ a ++ d)) = .ok .crci ∧ decode (.request (0x11#8 ++ a ++ d)) = .ok (.crcb (d.extractLsb' 0 8)) ∧
    decode (.request (0x12#8 ++ a ++ d)) = .ok .crcf) ∧
  ∀ s : State,
    (∃ t, exec .crci s = .next t ∧ t.crc = 0xFFFFFFFF#32 ∧ RegsSameExcept [.crc] s t ∧ BufSame s t ∧ Answered s t .none 0) ∧
    (∀ b, ∃ t, exec (.crcb b) s = .next t ∧ t.crc = crcByte Config.hw s.crc b ∧ RegsSameExcept [.crc] s t ∧ BufSame s t ∧
      Answered s t .none 0) ∧
    (∃ t, exec .crcf s = .next t ∧ RegsSameExcept [] s t ∧ BufSame s t ∧ Answered s t .none (s.crc ^^^ 0xFFFFFFFF#32))

/-- R104: `CRCP` completes from every state. With a legal length `CRC` becomes the raw CRC of `BUF[4..LEN-1]` and the response is
its checksum; otherwise `TOO_SHORT` or `OVERSIZED` and `CRC` is kept. `ERR` and `CRC_OK` are written on every path, `CLASS` and
`HERR` kept, nothing else written. -/
def Obligations.CrcpRule : Prop :=
  (∀ (a : Addr) (d : Word), decode (.request (0x13#8 ++ a ++ d)) = .ok .crcp) ∧
  ∀ s : State,
    (LengthLegal s → ∃ t, exec .crcp s = .next t ∧ t.crc = crcRaw Config.hw (s.memRead 4 (s.len.toNat - 4)) ∧
      StatusHas t.status s.status .none false (statusClass s.status) (statusHerr s.status) ∧
      RegsSameExcept [.crc, .status] s t ∧ BufSame s t ∧
      Answered s t .none (crc32 Config.hw (s.memRead 4 (s.len.toNat - 4)))) ∧
    (s.len.toNat < 16 → ∃ t, exec .crcp s = .next t ∧
      StatusHas t.status s.status .tooShort false (statusClass s.status) (statusHerr s.status) ∧
      RegsSameExcept [.status] s t ∧ BufSame s t ∧ Answered s t .tooShort 0) ∧
    (1024 < s.len.toNat → ∃ t, exec .crcp s = .next t ∧
      StatusHas t.status s.status .oversized false (statusClass s.status) (statusHerr s.status) ∧
      RegsSameExcept [.status] s t ∧ BufSame s t ∧ Answered s t .oversized 0)

/-! ### Access and system operations -/

/-- R130: `WRB` with `addr < 1024` stores `data[7:0]` at that byte alone and touches no register; with `addr >= 1024` it ends with
`BAD_ADDRESS`, sets `HERR` and changes nothing else. -/
def Obligations.WrbRule : Prop :=
  (∀ (a : Addr) (d : Word), decode (.request (0x20#8 ++ a ++ d)) = .ok (.wrb a (d.extractLsb' 0 8))) ∧
  ∀ (s : State) (a : Addr) (b : Byte),
    (a.toNat < 1024 → ∃ t, exec (.wrb a b) s = .next t ∧ t.bufRead a.toNat = b ∧ BufSameOutside a.toNat 1 s t ∧
      RegsSameExcept [] s t ∧ Answered s t .none 0) ∧
    (1024 ≤ a.toNat → ∃ t, exec (.wrb a b) s = .next t ∧ HerrRaised t.status s.status ∧ RegsSameExcept [.status] s t ∧
      BufSame s t ∧ Answered s t .badAddress 0)

/-- R131: `RDB` with `addr < 1024` answers the byte, zero-extended, and changes nothing; with `addr >= 1024` it ends with `BAD_ADDRESS`, sets `HERR` and changes nothing else. -/
def Obligations.RdbRule : Prop :=
  (∀ (a : Addr) (d : Word), decode (.request (0x21#8 ++ a ++ d)) = .ok (.rdb a)) ∧
  ∀ (s : State) (a : Addr),
    (a.toNat < 1024 → ∃ t, exec (.rdb a) s = .next t ∧ RegsSameExcept [] s t ∧ BufSame s t ∧
      Answered s t .none (0#24 ++ s.bufRead a.toNat)) ∧
    (1024 ≤ a.toNat → ∃ t, exec (.rdb a) s = .next t ∧ HerrRaised t.status s.status ∧ RegsSameExcept [.status] s t ∧
      BufSame s t ∧ Answered s t .badAddress 0)

/-- R132: `WRR` to `SEQ`, `CMD`, `OFF`, `PLEN` or `LEN` writes the 32 bits to that register alone; to `CKS`, `CRC` or `STATUS` it
ends with `READ_ONLY`; to a number of 8 or more with `BAD_ADDRESS`. A failing `WRR` sets `HERR` and changes nothing else. -/
def Obligations.WrrRule : Prop :=
  (∀ (a : Addr) (d : Word), decode (.request (0x22#8 ++ a ++ d)) = .ok (.wrr a d)) ∧
  ∀ (s : State) (d : Word),
    (∀ r : Reg, r = .seq ∨ r = .cmd ∨ r = .off ∨ r = .plen ∨ r = .len →
      ∃ t, exec (.wrr (regAddr r) d) s = .next t ∧ t.readReg r = d ∧ RegsSameExcept [r] s t ∧ BufSame s t ∧
        Answered s t .none 0) ∧
    (∀ a : Addr, a.toNat = 0 ∨ a.toNat = 6 ∨ a.toNat = 7 →
      ∃ t, exec (.wrr a d) s = .next t ∧ HerrRaised t.status s.status ∧ RegsSameExcept [.status] s t ∧ BufSame s t ∧
        Answered s t .readOnly 0) ∧
    (∀ a : Addr, 8 ≤ a.toNat →
      ∃ t, exec (.wrr a d) s = .next t ∧ HerrRaised t.status s.status ∧ RegsSameExcept [.status] s t ∧ BufSame s t ∧
        Answered s t .badAddress 0)

/-- R133: `RDR` of each of the eight registers answers its value and changes nothing; of a number of 8 or more it ends with
`BAD_ADDRESS`, sets `HERR` and changes nothing else. -/
def Obligations.RdrRule : Prop :=
  (∀ (a : Addr) (d : Word), decode (.request (0x23#8 ++ a ++ d)) = .ok (.rdr a)) ∧
  ∀ s : State,
    (∀ (a : Addr) (v : Word), [s.cks, s.seq, s.cmd, s.off, s.plen, s.len, s.crc, s.status][a.toNat]? = some v →
      ∃ t, exec (.rdr a) s = .next t ∧ RegsSameExcept [] s t ∧ BufSame s t ∧ Answered s t .none v) ∧
    (∀ a : Addr, 8 ≤ a.toNat → ∃ t, exec (.rdr a) s = .next t ∧ HerrRaised t.status s.status ∧
      RegsSameExcept [.status] s t ∧ BufSame s t ∧ Answered s t .badAddress 0)

/-- R134 and R135: `NOP` completes from every state and changes nothing; `CLR` completes from every state, puts every register at
its reset value (`CRC` at `CRC_INIT`, `STATUS` with `HERR` at 0) and leaves `BUF`; no other operation clears `HERR`. -/
def Obligations.NopAndClrRule : Prop :=
  (∀ (a : Addr) (d : Word), decode (.request (0x00#8 ++ a ++ d)) = .ok .nop ∧ decode (.request (0x01#8 ++ a ++ d)) = .ok .clr) ∧
  ∀ s : State,
    (∃ t, exec .nop s = .next t ∧ RegsSameExcept [] s t ∧ BufSame s t ∧ Answered s t .none 0) ∧
    (∃ t, exec .clr s = .next t ∧ t.cks = 0 ∧ t.seq = 0 ∧ t.cmd = 0 ∧ t.off = 0 ∧ t.plen = 0 ∧ t.len = 0 ∧
      t.crc = 0xFFFFFFFF#32 ∧ t.status = 0 ∧ BufSame s t ∧ Answered s t .none 0) ∧
    (∀ (i : Instr) (t : State), exec i s = .next t → i ≠ .clr → statusHerr s.status = true → statusHerr t.status = true)

/-! ### The codec operations -/

/-- R113 and R112: `ENC` completes from every state. With `16 + PLEN <= 1024` (a natural number, no wrap) it writes `BUF[0..15]` as
`enc32(CKS) enc32(SEQ) tagbytes(CMD) enc32(OFF)`, `LEN`, `CRC` and `CKS` over the header just written and the payload, and `STATUS`;
the response is `CKS`. Otherwise it ends with `OVERSIZED` and writes `STATUS` alone. -/
def Obligations.EncRule : Prop :=
  (∀ (a : Addr) (d : Word), decode (.request (0x30#8 ++ a ++ d)) = .ok .enc) ∧
  ∀ s : State,
    (16 + s.plen.toNat ≤ 1024 → ∃ t, exec .enc s = .next t ∧
      t.len.toNat = 16 + s.plen.toNat ∧
      t.crc = crcRaw Config.hw (enc32 Config.hw s.seq ++ tagbytes s.cmd ++ enc32 Config.hw s.off ++ s.memRead 16 s.plen.toNat) ∧
      t.cks = t.crc ^^^ 0xFFFFFFFF#32 ∧
      t.memRead 0 16 = enc32 Config.hw t.cks ++ enc32 Config.hw s.seq ++ tagbytes s.cmd ++ enc32 Config.hw s.off ∧
      BufSameOutside 0 16 s t ∧ RegsSameExcept [.cks, .len, .crc, .status] s t ∧
      StatusHas t.status s.status .none false (classify Config.hw s.cmd).number (statusHerr s.status) ∧
      Answered s t .none t.cks) ∧
    (1024 < 16 + s.plen.toNat → ∃ t, exec .enc s = .next t ∧ RegsSameExcept [.status] s t ∧ BufSame s t ∧
      StatusHas t.status s.status .oversized false 0 (statusHerr s.status) ∧ Answered s t .oversized 0)

/-- R116: `DEC` completes from every state. With a legal length it extracts the four header fields and `PLEN = LEN - 16`, and the
class of the command just extracted goes to `STATUS.CLASS` and the response, whatever the checksum; otherwise `TOO_SHORT` or
`OVERSIZED` and only `STATUS` is written. `BUF`, `LEN`, `CRC` are never written. -/
def Obligations.DecRule : Prop :=
  (∀ (a : Addr) (d : Word), decode (.request (0x31#8 ++ a ++ d)) = .ok .dec) ∧
  ∀ s : State,
    (LengthLegal s → ∃ t, exec .dec s = .next t ∧
      t.cks = dec32 Config.hw (s.bufRead 0) (s.bufRead 1) (s.bufRead 2) (s.bufRead 3) ∧
      t.seq = dec32 Config.hw (s.bufRead 4) (s.bufRead 5) (s.bufRead 6) (s.bufRead 7) ∧
      t.cmd = s.bufRead 8 ++ s.bufRead 9 ++ s.bufRead 10 ++ s.bufRead 11 ∧
      t.off = dec32 Config.hw (s.bufRead 12) (s.bufRead 13) (s.bufRead 14) (s.bufRead 15) ∧
      t.plen.toNat = s.len.toNat - 16 ∧
      RegsSameExcept [.cks, .seq, .cmd, .off, .plen, .status] s t ∧ BufSame s t ∧
      StatusHas t.status s.status .none false (classify Config.hw t.cmd).number (statusHerr s.status) ∧
      Answered s t .none ((classify Config.hw t.cmd).number.setWidth 32)) ∧
    (s.len.toNat < 16 → ∃ t, exec .dec s = .next t ∧ RegsSameExcept [.status] s t ∧ BufSame s t ∧
      StatusHas t.status s.status .tooShort false 0 (statusHerr s.status) ∧ Answered s t .tooShort 0) ∧
    (1024 < s.len.toNat → ∃ t, exec .dec s = .next t ∧ RegsSameExcept [.status] s t ∧ BufSame s t ∧
      StatusHas t.status s.status .oversized false 0 (statusHerr s.status) ∧ Answered s t .oversized 0)

/-- R119: `VFY` completes from every state. With a legal length `CRC` becomes the raw CRC of `BUF[4..LEN-1]`, and the verdict is
whether its checksum equals the one in `BUF[0..3]`: response 1 and `CRC_OK`, or `CHECKSUM_MISMATCH` (`CRC` is written on a
mismatch too, R119; log 7 says why this is followed and not R155's summary); otherwise `TOO_SHORT` or
`OVERSIZED` and `CRC` is kept. `CLASS`, `HERR`, `CKS` and all else are kept. -/
def Obligations.VfyRule : Prop :=
  (∀ (a : Addr) (d : Word), decode (.request (0x32#8 ++ a ++ d)) = .ok .vfy) ∧
  ∀ s : State,
    (LengthLegal s → ∃ t, exec .vfy s = .next t ∧ t.crc = crcRaw Config.hw (s.memRead 4 (s.len.toNat - 4)) ∧
      RegsSameExcept [.crc, .status] s t ∧ BufSame s t ∧
      (crc32 Config.hw (s.memRead 4 (s.len.toNat - 4)) =
          dec32 Config.hw (s.bufRead 0) (s.bufRead 1) (s.bufRead 2) (s.bufRead 3) →
        StatusHas t.status s.status .none true (statusClass s.status) (statusHerr s.status) ∧ Answered s t .none 1) ∧
      (crc32 Config.hw (s.memRead 4 (s.len.toNat - 4)) ≠
          dec32 Config.hw (s.bufRead 0) (s.bufRead 1) (s.bufRead 2) (s.bufRead 3) →
        StatusHas t.status s.status .checksumMismatch false (statusClass s.status) (statusHerr s.status) ∧
          Answered s t .checksumMismatch 0)) ∧
    (s.len.toNat < 16 → ∃ t, exec .vfy s = .next t ∧ RegsSameExcept [.status] s t ∧ BufSame s t ∧
      StatusHas t.status s.status .tooShort false (statusClass s.status) (statusHerr s.status) ∧ Answered s t .tooShort 0) ∧
    (1024 < s.len.toNat → ∃ t, exec .vfy s = .next t ∧ RegsSameExcept [.status] s t ∧ BufSame s t ∧
      StatusHas t.status s.status .oversized false (statusClass s.status) (statusHerr s.status) ∧ Answered s t .oversized 0)

/-! ### The command tags -/

/-- R66, R67, R82, and log 5 (a tag run on its own answers its class and changes nothing of the block: the model's choice): each
tag completes from every state; and the class of any command word is that of the tag row it selects, 0 if it selects none. -/
def Obligations.TagsAnswerTheirClass : Prop :=
  (∀ (s : State) (i : Instr) (k : BitVec 3),
    (i, k) ∈ [(Instr.name, 1#3), (Instr.size, 2#3), (Instr.hash, 3#3), (Instr.data, 4#3), (Instr.stop, 5#3)] →
    ∃ t c, exec i s = .next t ∧ t.classes = s.classes ++ [c] ∧ c.number = k ∧ RegsSameExcept [] s t ∧ BufSame s t ∧
      t.inputs = s.inputs ∧ t.responses = s.responses ∧ t.epoch = s.epoch) ∧
  (∀ v : Word, classify Config.hw v = match decode (.command v) with
    | .ok .name => .name
    | .ok .size => .size
    | .ok .hash => .hash
    | .ok .data => .data
    | .ok .stop => .stop
    | _ => .unknown)

/-! ### What holds across operations -/

/-- R114: after a successful `ENC` the length is legal, `BUF[0..3]` is the checksum of the rest of the frame, `BUF[4..15]` holds the
fields, the payload is unchanged, and a `VFY` issued next returns 1; a failing `ENC` writes nothing to `BUF`. -/
def Obligations.EncodedFrameVerifies : Prop :=
  (∀ s : State, 16 + s.plen.toNat ≤ 1024 →
    ∃ t u, exec .enc s = .next t ∧ LengthLegal t ∧
      t.memRead 0 4 = enc32 Config.hw (crc32 Config.hw (t.memRead 4 (t.len.toNat - 4))) ∧
      t.memRead 4 4 = enc32 Config.hw t.seq ∧ t.memRead 8 4 = tagbytes t.cmd ∧ t.memRead 12 4 = enc32 Config.hw t.off ∧
      (∀ a, 16 ≤ a → t.bufRead a = s.bufRead a) ∧
      exec .vfy t = .next u ∧ Answered t u .none 1 ∧ Trusted u) ∧
  (∀ s : State, 1024 < 16 + s.plen.toNat → ∃ t, exec .enc s = .next t ∧ BufSame s t)

/-- R118: `DEC` after `ENC` succeeds and writes back the values the registers already hold and the class `STATUS` already holds; and if `VFY`
returns 1 on a buffer, `ENC` after `DEC` rewrites `BUF[0..15]` with the bytes already there. -/
def Obligations.EncodeDecodeRoundTrip : Prop :=
  (∀ s : State, 16 + s.plen.toNat ≤ 1024 →
    ∃ t u d, exec .enc s = .next t ∧ exec .dec t = .next u ∧ Answered t u .none d ∧ u.seq = t.seq ∧ u.cmd = t.cmd ∧ u.off = t.off ∧ u.plen = t.plen ∧
      u.cks = t.cks ∧ u.len = t.len ∧ statusClass u.status = statusClass t.status ∧ u.seq = s.seq ∧ u.cmd = s.cmd ∧
      u.off = s.off ∧ u.plen = s.plen) ∧
  (∀ s v : State, exec .vfy s = .next v → Answered s v .none 1 →
    ∃ t u, exec .dec s = .next t ∧ exec .enc t = .next u ∧ BufSame s u ∧ u.len = s.len ∧ u.cks = t.cks)

/-- R120, R98: for a legal length `VFY` returns 1 exactly when the first four bytes are `enc32(crc32(the rest))`; given the length
and the covered bytes, there is exactly one such value of the four; and no frame of the same length that differs from a verifying one
in its checksum bytes alone, or inside one window of at most 32 covered bits, verifies. -/
def Obligations.VerifiesExactlyItsChecksum : Prop :=
  (∀ s : State, LengthLegal s → ∃ t c d, exec .vfy s = .next t ∧ Answered s t c d ∧
    (d = 1 ↔ s.memRead 0 4 = enc32 Config.hw (crc32 Config.hw (s.memRead 4 (s.len.toNat - 4)))) ∧ (c = .none ↔ d = 1)) ∧
  (∀ s : State, LengthLegal s → ∃ bs : List Byte, bs.length = 4 ∧
    ∃ v, exec .vfy (s.memWrite 0 bs) = .next v ∧ Answered (s.memWrite 0 bs) v .none 1) ∧
  (∀ s s' v v' : State, LengthLegal s → s'.len = s.len →
    s'.memRead 4 (s.len.toNat - 4) = s.memRead 4 (s.len.toNat - 4) →
    exec .vfy s = .next v → Answered s v .none 1 → exec .vfy s' = .next v' → Answered s' v' .none 1 →
    s'.memRead 0 4 = s.memRead 0 4) ∧
  (∀ (s s' v : State) (k : Nat), exec .vfy s = .next v → Answered s v .none 1 → s'.len = s.len →
    s'.memRead 0 s.len.toNat ≠ s.memRead 0 s.len.toNat →
    (s'.memRead 4 (s.len.toNat - 4) = s.memRead 4 (s.len.toNat - 4) ∨
      (s'.memRead 0 4 = s.memRead 0 4 ∧ ∀ j, (j < k ∨ k + 32 ≤ j) →
        absorbedBit (s'.memRead 4 (s.len.toNat - 4)) j = absorbedBit (s.memRead 4 (s.len.toNat - 4)) j)) →
    ∃ u, exec .vfy s' = .next u ∧ Answered s' u .checksumMismatch 0 ∧ ¬Trusted u)

/-- R121: whatever verifies, changing any one byte of the frame to any other value, in the checksum field, the header
or the payload, makes `VFY` end with `CHECKSUM_MISMATCH`. -/
def Obligations.ByteCorruptionCaught : Prop :=
  ∀ (s v : State) (a : Addr) (b : Byte), exec .vfy s = .next v → Answered s v .none 1 → a.toNat < s.len.toNat →
    b ≠ s.bufRead a.toNat →
    ∃ t u, exec (.wrb a b) s = .next t ∧ exec .vfy t = .next u ∧ Answered t u .checksumMismatch 0 ∧ ¬Trusted u

/-- R55: two states with the same registers that agree on `BUF[0..LEN-1]` (for `ENC`, on the payload) give the same response and
the same registers under `DEC`, `VFY`, `CRCP` and `ENC`: no byte at or above the length has any influence. -/
def Obligations.BytesBeyondFrameIgnored : Prop :=
  (∀ (i : Instr) (s s' : State), i = .dec ∨ i = .vfy ∨ i = .crcp → AgreeOn (fun a => a < s.len.toNat) s s' →
    ∃ t t' c d, exec i s = .next t ∧ exec i s' = .next t' ∧ Answered s t c d ∧ Answered s' t' c d ∧
      ∀ r, t'.readReg r = t.readReg r) ∧
  (∀ s s' : State, AgreeOn (fun a => 16 ≤ a ∧ a < 16 + s.plen.toNat) s s' →
    ∃ t t' c d, exec .enc s = .next t ∧ exec .enc s' = .next t' ∧ Answered s t c d ∧ Answered s' t' c d ∧
      ∀ r, t'.readReg r = t.readReg r)

/-- R46: no operation reads a byte outside `BUF[0..1023]`: two states with the same registers that agree on those bytes give, under
every instruction, the same response or class, the same registers and the same bytes there; and no byte outside is written. -/
def Obligations.NoAccessOutsideBuffer : Prop :=
  ∀ (i : Instr) (s s' : State), AgreeOn (fun a => a < 1024) s s' →
    ∃ t t', exec i s = .next t ∧ exec i s' = .next t' ∧ AgreeOn (fun a => a < 1024) t t' ∧
      (∃ rs ks, t.responses = s.responses ++ rs ∧ t'.responses = s'.responses ++ rs ∧ t.classes = s.classes ++ ks ∧
        t'.classes = s'.classes ++ ks) ∧
      (∀ a, 1024 ≤ a → t.bufRead a = s.bufRead a)

/-- R48: `DEC`, `VFY`, `CRCP`, `NOP` and `ENC` issued twice leave the state and give the response of the first time; `RDB`, `RDR` in
range and `CRCF` change nothing; `CRCB` is not idempotent. -/
def Obligations.RepeatedOperations : Prop :=
  (∀ (i : Instr) (s : State), i = .dec ∨ i = .vfy ∨ i = .crcp ∨ i = .nop ∨ i = .enc →
    ∃ t u c d, exec i s = .next t ∧ exec i t = .next u ∧ Answered s t c d ∧ Answered t u c d ∧
      (∀ r, u.readReg r = t.readReg r) ∧ BufSame t u) ∧
  (∀ (i : Instr) (s : State), i = .crcf ∨ (∃ a : Addr, a.toNat < 1024 ∧ i = .rdb a) ∨ (∃ a : Addr, a.toNat < 8 ∧ i = .rdr a) →
    ∃ t u d, exec i s = .next t ∧ exec i t = .next u ∧ Answered s t .none d ∧ Answered t u .none d ∧
      (∀ r, t.readReg r = s.readReg r) ∧ BufSame s t) ∧
  (∃ (s t u : State) (b : Byte), exec (.crcb b) s = .next t ∧ exec (.crcb b) t = .next u ∧ u.crc ≠ t.crc)

/-- R155 and R150, with log 7 (`VFY` writes `CRC` before it finds a mismatch, as R119 and R19 say): a failing operation answers
datum 0 and writes `STATUS` alone; codes 4 to 6 set `HERR` and keep the rest of `STATUS`; codes 1 to 3 put the code in `ERR`,
clear `CRC_OK` and keep `HERR`. -/
def Obligations.FailuresArePrecise : Prop :=
  ∀ (i : Instr) (s t : State) (c : ResultCode) (d : Word), exec i s = .next t → t.responses = s.responses ++ [⟨c, d⟩] →
    c ≠ .none →
    d = 0 ∧ BufSame s t ∧ RegsSameExcept [.crc, .status] s t ∧ (c ≠ .checksumMismatch → t.crc = s.crc) ∧
    (c = .checksumMismatch → i = .vfy) ∧
    (c.isMisuse = true → HerrRaised t.status s.status) ∧
    (c.isMisuse = false → statusErr t.status = c.number ∧ statusCrcOk t.status = false ∧
      statusHerr t.status = statusHerr s.status ∧ statusReserved t.status = statusReserved s.status ∧
      statusClass t.status = if i = .enc ∨ i = .dec then 0 else statusClass s.status)

/-- R152, R25: a request that keeps the interface contract is never answered with codes 4 to 6 and leaves `HERR` alone or clears
it; one that breaks it always is, and sets `HERR`. -/
def Obligations.ContractDecidesMisuse : Prop :=
  ∀ (i : Instr) (s t : State), exec i s = .next t →
    (i.wellFormed = true → (∀ c d, t.responses = s.responses ++ [⟨c, d⟩] → c.isMisuse = false) ∧
      (ContractKept s → ContractKept t)) ∧
    (i.wellFormed = false → (∃ c, t.responses = s.responses ++ [⟨c, 0⟩] ∧ c.isMisuse = true) ∧ ¬ContractKept t)

/-- R156, R25, R135: `HERR` once set stays set under every instruction but `CLR`; it is set by an instruction only with codes 4 to 6. -/
def Obligations.HerrStaysUntilClr : Prop :=
  ∀ (i : Instr) (s t : State), exec i s = .next t →
    (statusHerr s.status = true → i ≠ .clr → statusHerr t.status = true) ∧
    (i = .clr → statusHerr t.status = false) ∧
    (statusHerr s.status = false → statusHerr t.status = true →
      ∃ c, t.responses = s.responses ++ [⟨c, 0⟩] ∧ c.isMisuse = true)

/-- R22, R23, R24: who writes `ERR`, `CRC_OK` and `CLASS`, and with what, for every instruction. `ERR` is the code of the last codec
operation; `CRC_OK` is 1 only by a `VFY` that answered 1, and `ENC`, `DEC`, `CRCP`, `CLR` clear it; `CLASS` is the class of the command
after a successful `ENC` or `DEC`, 0 after a failing one; everything else leaves them. -/
def Obligations.StatusFieldWriters : Prop :=
  ∀ (i : Instr) (s t : State), exec i s = .next t →
    (i = .enc ∨ i = .dec ∨ i = .vfy ∨ i = .crcp → ∃ c d, t.responses = s.responses ++ [⟨c, d⟩] ∧
      statusErr t.status = c.number ∧ c.number.toNat ≤ 3 ∧
      (statusCrcOk t.status = true ↔ i = .vfy ∧ c = .none) ∧
      (i = .enc ∨ i = .dec → statusClass t.status = if c = .none then (classify Config.hw t.cmd).number else 0) ∧
      (i = .vfy ∨ i = .crcp → statusClass t.status = statusClass s.status)) ∧
    (i = .clr → t.status = 0) ∧
    (i ≠ .enc → i ≠ .dec → i ≠ .vfy → i ≠ .crcp → i ≠ .clr → statusErr t.status = statusErr s.status ∧
      statusCrcOk t.status = statusCrcOk s.status ∧ statusClass t.status = statusClass s.status)

/-- R27, R11, R47, R53 (with log 7 for `CRC` under `VFY`): which state each operation may write. Only `WRB` (one byte) and `ENC`
(bytes 0 to 15) write `BUF`; each register is written only by the operations of its column. -/
def Obligations.WriteMatrix : Prop :=
  ∀ (i : Instr) (s t : State), exec i s = .next t →
    RegsSameExcept (match i with
      | .clr => [.cks, .seq, .cmd, .off, .plen, .len, .crc, .status]
      | .crci | .crcb _ => [.crc]
      | .crcp | .vfy => [.crc, .status]
      | .wrb _ _ | .rdb _ | .rdr _ => [.status]
      | .wrr a _ => if a.toNat = 1 then [.seq] else if a.toNat = 2 then [.cmd] else if a.toNat = 3 then [.off]
          else if a.toNat = 4 then [.plen] else if a.toNat = 5 then [.len] else [.status]
      | .enc => [.cks, .len, .crc, .status]
      | .dec => [.cks, .seq, .cmd, .off, .plen, .status]
      | .nop | .crcf | .name | .size | .hash | .data | .stop => []) s t ∧
    (match i with
      | .wrb a _ => BufSameOutside a.toNat 1 s t
      | .enc => BufSameOutside 0 16 s t
      | _ => BufSame s t) ∧
    t.inputs = s.inputs ∧ t.epoch = s.epoch

/-! ### The invariant -/

/-- Every step from a state that meets the invariant leads to one that meets it: the buffer list stays canonical (log 2), the
reserved bits of `STATUS` stay 0 (R26), `ERR` stays at most 3 (R22), `CLASS` at most 5 (R21), and `CRC_OK` stands only beside `ERR` 0. -/
def Obligations.StepKeepsInvariant : Prop := ∀ s t : State, StateInv s → step s = .next t → StateInv t

/-- The state after reset meets the invariant and has the register values of R31; no byte of `BUF` is fixed (its content is the
free value of U2, log 2). -/
def Obligations.ResetMeetsInvariant : Prop :=
  StateInv State.reset ∧ State.reset.cks = 0 ∧ State.reset.seq = 0 ∧ State.reset.cmd = 0 ∧ State.reset.off = 0 ∧
    State.reset.plen = 0 ∧ State.reset.len = 0 ∧ State.reset.crc = 0xFFFFFFFF#32 ∧ State.reset.status = 0 ∧
    ∀ a, State.reset.bufRead a = Config.bufResetByte 0 a

/-! ### Sequences of requests -/

/-- R80, R92, R101 to R103: the pseudo-operation `CRCS b0 ... b(n-1)`, run as requests from any state, answers `crc32` of the whole
byte sequence, of any length, and leaves its raw CRC in `CRC` and everything else alone. -/
def Obligations.CrcsProgramComputesCrc32 : Prop :=
  ∀ (bytes : List Byte) (s : State), ∃ t, runProgram (crcs bytes) s = .next t ∧
    t.responses = s.responses ++ List.replicate (bytes.length + 1) ⟨.none, 0⟩ ++ [⟨.none, crc32 Config.hw bytes⟩] ∧
    t.crc = crcRaw Config.hw bytes ∧ RegsSameExcept [.crc] s t ∧ BufSame s t ∧ t.inputs = []

/-- R124 (receiver), R80: for every byte sequence of 16 to 1024 bytes and every start state, loading it, `DEC` and `VFY` put the
sequence in `BUF`, its fields in the registers, and set `CRC_OK` exactly if its first four bytes are the checksum of the rest. -/
def Obligations.ReceiveProgramReadsFrame : Prop :=
  ∀ (f : List Byte) (s : State), 16 ≤ f.length → f.length ≤ 1024 →
    ∃ p t, loadframe f = some p ∧ runProgram (p ++ decodeOp) s = .next t ∧ t.memRead 0 f.length = f ∧ t.len.toNat = f.length ∧
      t.plen.toNat = f.length - 16 ∧
      t.cks = dec32 Config.hw (f.getD 0 0) (f.getD 1 0) (f.getD 2 0) (f.getD 3 0) ∧
      t.seq = dec32 Config.hw (f.getD 4 0) (f.getD 5 0) (f.getD 6 0) (f.getD 7 0) ∧
      t.cmd = tagword (f.getD 8 0) (f.getD 9 0) (f.getD 10 0) (f.getD 11 0) ∧
      t.off = dec32 Config.hw (f.getD 12 0) (f.getD 13 0) (f.getD 14 0) (f.getD 15 0) ∧
      statusClass t.status = (classify Config.hw t.cmd).number ∧
      (Trusted t ↔ f.take 4 = enc32 Config.hw (crc32 Config.hw (f.drop 4)))

/-- Source statements S1 and S3 (95_test_vectors.md), R113, R116, R119, R124: for every sequence number, command word, offset and
payload of at most 1008 bytes, from every state, staging the payload and encoding gives a frame which, loaded into a block of the
same build (R5: the same byte order and CRC parameters) in any state, decodes to the same four fields and payload and verifies. -/
def Obligations.SendThenReceive : Prop :=
  ∀ (seq tag off : Word) (payload : List Byte) (s r : State), payload.length ≤ 1008 →
    ∃ p q t u, ldbytes 16 payload = some p ∧
      runProgram (p ++ encodeWithWord seq tag off (BitVec.ofNat 32 payload.length)) s = .next t ∧
      loadframe (t.memRead 0 (16 + payload.length)) = some q ∧ runProgram (q ++ decodeOp) r = .next u ∧
      t.len.toNat = 16 + payload.length ∧
      u.seq = seq ∧ u.cmd = tag ∧ u.off = off ∧ u.plen.toNat = payload.length ∧ u.cks = t.cks ∧
      u.memRead 16 payload.length = payload ∧ Trusted u ∧ u.responses.getLast? = some ⟨.none, 1⟩

/-- R43, R41, R42: a frame read by a block built with the other byte order gives byte-swapped `SEQ`, `OFF` and `CKS`, the same
`CMD`, and verifies there only if its checksum bytes are a palindrome. -/
def Obligations.OtherByteOrderSwapsFields : Prop :=
  (∀ s : State, LengthLegal s → ∃ t t', execDecWith Config.hw s = .next t ∧ execDecWith Config.hwLittle s = .next t' ∧
    t'.seq = swapBytes t.seq ∧ t'.off = swapBytes t.off ∧ t'.cks = swapBytes t.cks ∧ t'.cmd = t.cmd ∧ t'.plen = t.plen) ∧
  (∀ s v : State, execVfyWith Config.hw s = .next v → Answered s v .none 1 →
    ∃ v' c d, execVfyWith Config.hwLittle s = .next v' ∧ Answered s v' c d ∧
      (d = 1 ↔ s.bufRead 0 = s.bufRead 3 ∧ s.bufRead 1 = s.bufRead 2))

/-! ### The other reading of log 7 -/

/-- R155 and R27 under the other reading of log 7 (the model's own alternative build `Config.hwKeepsCrc`; this hardware follows R119):
there `VFY` answers from every state with the same response and the same `STATUS` as here, a `VFY` that answers a code other than
`NONE` writes `STATUS` alone and answers datum 0, and one that answers `NONE` does all that it does here. -/
def Obligations.OtherReadingKeepsCrcOnMismatch : Prop :=
  ∀ s : State, ∃ t v c d, execVfyWith Config.hwKeepsCrc s = .next t ∧ exec .vfy s = .next v ∧
    Answered s t c d ∧ Answered s v c d ∧ t.status = v.status ∧
    (c ≠ .none → d = 0 ∧ RegsSameExcept [.status] s t ∧ BufSame s t) ∧ (c = .none → t = v)
end

