-- ==== Sys2Proof/Laws/Config.lean ====
section
/-! SUPPORT. The parameters of this hardware as literals (spec/00_scope.md R4), so that no proof unfolds `Config.hw`. -/

namespace Sys2Proof.Machine

@[simp] theorem hw_maxFrame : Config.hw.maxFrame = 1024 := rfl
@[simp] theorem hw_hdr : Config.hw.hdr = 16 := rfl
@[simp] theorem hw_field : Config.hw.field = 4 := rfl
@[simp] theorem hw_nreg : Config.hw.nreg = 8 := rfl
@[simp] theorem hw_endian : Config.hw.endian = .be := rfl
@[simp] theorem hw_crcPolyR : Config.hw.crcPolyR = 0xEDB88320#32 := rfl
@[simp] theorem hw_crcInit : Config.hw.crcInit = 0xFFFFFFFF#32 := rfl
@[simp] theorem hw_crcXorOut : Config.hw.crcXorOut = 0xFFFFFFFF#32 := rfl
@[simp] theorem hw_tagName : Config.hw.tagName = 0x4E414D45#32 := rfl
@[simp] theorem hw_tagSize : Config.hw.tagSize = 0x53495A45#32 := rfl
@[simp] theorem hw_tagHash : Config.hw.tagHash = 0x48415348#32 := rfl
@[simp] theorem hw_tagData : Config.hw.tagData = 0x44415441#32 := rfl
@[simp] theorem hw_tagStop : Config.hw.tagStop = 0x53544F50#32 := rfl
@[simp] theorem hw_mismatchKeepsCrc : Config.hw.mismatchKeepsCrc = false := rfl
@[simp] theorem hwKeepsCrc_mismatchKeepsCrc : Config.hwKeepsCrc.mismatchKeepsCrc = true := rfl
@[simp] theorem hw_maxPayload : Config.hw.maxPayload = 1008 := rfl

@[simp] theorem hwLittle_maxFrame : Config.hwLittle.maxFrame = 1024 := rfl
@[simp] theorem hwLittle_hdr : Config.hwLittle.hdr = 16 := rfl
@[simp] theorem hwLittle_field : Config.hwLittle.field = 4 := rfl
@[simp] theorem hwLittle_endian : Config.hwLittle.endian = .le := rfl
@[simp] theorem hwLittle_crcPolyR : Config.hwLittle.crcPolyR = 0xEDB88320#32 := rfl
@[simp] theorem hwLittle_crcInit : Config.hwLittle.crcInit = 0xFFFFFFFF#32 := rfl
@[simp] theorem hwLittle_crcXorOut : Config.hwLittle.crcXorOut = 0xFFFFFFFF#32 := rfl

@[simp] theorem checksumAt_eq (cfg : Config) : checksumAt cfg = 0 := rfl
@[simp] theorem sequenceAt_eq (cfg : Config) : sequenceAt cfg = cfg.field := rfl
@[simp] theorem commandAt_eq (cfg : Config) : commandAt cfg = 2 * cfg.field := rfl
@[simp] theorem offsetAt_eq (cfg : Config) : offsetAt cfg = 3 * cfg.field := rfl

end Sys2Proof.Machine
end

