-- ==== Sys2Proof/Laws/Decode.lean ====
section
/-! SUPPORT. The fields of a request word built from its fields (spec/30_encoding.md R72), and what the decoder answers. -/

namespace Sys2Proof

@[simp] theorem reqOp_mkRequest (op : BitVec 8) (a : Addr) (d : Word) : reqOp (mkRequest op a d) = op := by
  refine BitVec.eq_of_getLsbD_eq fun i hi => ?_
  simp only [reqOp, mkRequest, BitVec.getLsbD_extractLsb', BitVec.getLsbD_append]
  rw [if_neg (by omega), if_neg (by omega)]
  simp [hi, show 48 + i - 32 - 16 = i by omega]

@[simp] theorem reqAddr_mkRequest (op : BitVec 8) (a : Addr) (d : Word) : reqAddr (mkRequest op a d) = a := by
  refine BitVec.eq_of_getLsbD_eq fun i hi => ?_
  simp only [reqAddr, mkRequest, BitVec.getLsbD_extractLsb', BitVec.getLsbD_append]
  rw [if_neg (by omega), if_pos (by omega)]
  simp [hi]

@[simp] theorem reqData_mkRequest (op : BitVec 8) (a : Addr) (d : Word) : reqData (mkRequest op a d) = d := by
  refine BitVec.eq_of_getLsbD_eq fun i hi => ?_
  simp only [reqData, mkRequest, BitVec.getLsbD_extractLsb', BitVec.getLsbD_append]
  rw [if_pos (by omega)]
  simp [hi]

@[simp] theorem reqByte_mkRequest (op : BitVec 8) (a : Addr) (d : Word) : reqByte (mkRequest op a d) = d.extractLsb' 0 8 := by
  refine BitVec.eq_of_getLsbD_eq fun i hi => ?_
  simp only [reqByte, mkRequest, BitVec.getLsbD_extractLsb', BitVec.getLsbD_append]
  rw [if_pos (by omega)]

/-- A request word is the word of its fields. -/
theorem mkRequest_fields (w : ReqWord) : mkRequest (reqOp w) (reqAddr w) (reqData w) = w := by
  refine BitVec.eq_of_getLsbD_eq fun i hi => ?_
  simp only [reqOp, reqAddr, reqData, mkRequest, BitVec.getLsbD_extractLsb', BitVec.getLsbD_append]
  by_cases h1 : i < 32
  · rw [if_pos h1]; simp [h1]
  · rw [if_neg h1]
    by_cases h2 : i - 32 < 16
    · rw [if_pos h2]; simp [h2, show 32 + (i - 32) = i by omega]
    · rw [if_neg h2]; simp [show i - 32 - 16 < 8 by omega, show 48 + (i - 32 - 16) = i by omega]

@[simp] theorem byte_of_setWidth (b : Byte) : (b.setWidth 32).extractLsb' 0 8 = b := by
  refine BitVec.eq_of_getLsbD_eq fun i hi => ?_
  simp [hi, show i < 32 by omega]

/-! ### What the decoder answers -/

/-- The rows of the operation map, and what is left (30_encoding.md R74, R76): cite this instead of unfolding the decoder. -/
theorem decodeRequest_cases (w : ReqWord) :
    (reqOp w = 0x00#8 ∧ decode (.request w) = .ok .nop) ∨
    (reqOp w = 0x01#8 ∧ decode (.request w) = .ok .clr) ∨
    (reqOp w = 0x10#8 ∧ decode (.request w) = .ok .crci) ∨
    (reqOp w = 0x11#8 ∧ decode (.request w) = .ok (.crcb (reqByte w))) ∨
    (reqOp w = 0x12#8 ∧ decode (.request w) = .ok .crcf) ∨
    (reqOp w = 0x13#8 ∧ decode (.request w) = .ok .crcp) ∨
    (reqOp w = 0x20#8 ∧ decode (.request w) = .ok (.wrb (reqAddr w) (reqByte w))) ∨
    (reqOp w = 0x21#8 ∧ decode (.request w) = .ok (.rdb (reqAddr w))) ∨
    (reqOp w = 0x22#8 ∧ decode (.request w) = .ok (.wrr (reqAddr w) (reqData w))) ∨
    (reqOp w = 0x23#8 ∧ decode (.request w) = .ok (.rdr (reqAddr w))) ∨
    (reqOp w = 0x30#8 ∧ decode (.request w) = .ok .enc) ∨
    (reqOp w = 0x31#8 ∧ decode (.request w) = .ok .dec) ∨
    (reqOp w = 0x32#8 ∧ decode (.request w) = .ok .vfy) ∨
    decode (.request w) = .error (.reservedOp (reqOp w)) := by
  simp only [show decode (.request w) = decodeRequest w from rfl, decodeRequest]
  by_cases h0x00 : reqOp w = 0x00#8
  · exact Or.inl ⟨h0x00, if_pos h0x00⟩
  rw [if_neg h0x00]
  refine Or.inr ?_
  by_cases h0x01 : reqOp w = 0x01#8
  · exact Or.inl ⟨h0x01, if_pos h0x01⟩
  rw [if_neg h0x01]
  refine Or.inr ?_
  by_cases h0x10 : reqOp w = 0x10#8
  · exact Or.inl ⟨h0x10, if_pos h0x10⟩
  rw [if_neg h0x10]
  refine Or.inr ?_
  by_cases h0x11 : reqOp w = 0x11#8
  · exact Or.inl ⟨h0x11, if_pos h0x11⟩
  rw [if_neg h0x11]
  refine Or.inr ?_
  by_cases h0x12 : reqOp w = 0x12#8
  · exact Or.inl ⟨h0x12, if_pos h0x12⟩
  rw [if_neg h0x12]
  refine Or.inr ?_
  by_cases h0x13 : reqOp w = 0x13#8
  · exact Or.inl ⟨h0x13, if_pos h0x13⟩
  rw [if_neg h0x13]
  refine Or.inr ?_
  by_cases h0x20 : reqOp w = 0x20#8
  · exact Or.inl ⟨h0x20, if_pos h0x20⟩
  rw [if_neg h0x20]
  refine Or.inr ?_
  by_cases h0x21 : reqOp w = 0x21#8
  · exact Or.inl ⟨h0x21, if_pos h0x21⟩
  rw [if_neg h0x21]
  refine Or.inr ?_
  by_cases h0x22 : reqOp w = 0x22#8
  · exact Or.inl ⟨h0x22, if_pos h0x22⟩
  rw [if_neg h0x22]
  refine Or.inr ?_
  by_cases h0x23 : reqOp w = 0x23#8
  · exact Or.inl ⟨h0x23, if_pos h0x23⟩
  rw [if_neg h0x23]
  refine Or.inr ?_
  by_cases h0x30 : reqOp w = 0x30#8
  · exact Or.inl ⟨h0x30, if_pos h0x30⟩
  rw [if_neg h0x30]
  refine Or.inr ?_
  by_cases h0x31 : reqOp w = 0x31#8
  · exact Or.inl ⟨h0x31, if_pos h0x31⟩
  rw [if_neg h0x31]
  refine Or.inr ?_
  by_cases h0x32 : reqOp w = 0x32#8
  · exact Or.inl ⟨h0x32, if_pos h0x32⟩
  rw [if_neg h0x32]
  refine Or.inr ?_
  rfl

/-- A request word decodes to a request. -/
theorem decodeRequest_isRequest {w : ReqWord} {i : Instr} (h : decode (.request w) = .ok i) : i.isRequest = true := by
  rcases decodeRequest_cases w with hc | hc | hc | hc | hc | hc | hc | hc | hc | hc | hc | hc | hc | hc
  all_goals first | (rw [hc.2] at h; cases h; rfl) | (rw [hc] at h; cases h)

/-- A request word that does not decode has a reserved code, and the decoder names it. -/
theorem decodeRequest_error {w : ReqWord} {r : Reject} (h : decode (.request w) = .error r) : r = .reservedOp (reqOp w) := by
  rcases decodeRequest_cases w with hc | hc | hc | hc | hc | hc | hc | hc | hc | hc | hc | hc | hc | hc
  all_goals first | (rw [hc.2] at h; cases h) | (rw [hc] at h; cases h; rfl)

/-- A command word decodes to a tag. -/
theorem decodeCommand_isRequest {w : Word} {i : Instr} (h : decode (.command w) = .ok i) : i.isRequest = false := by
  change decodeCommand w = _ at h
  unfold decodeCommand at h
  repeat' split at h
  all_goals first | (cases h; rfl) | cases h

/-- A command word that does not decode is named. -/
theorem decodeCommand_error {w : Word} {r : Reject} (h : decode (.command w) = .error r) : r = .unknownTag w := by
  change decodeCommand w = _ at h
  unfold decodeCommand at h
  repeat' split at h
  all_goals first | (cases h; rfl) | cases h

end Sys2Proof
end

