-- ==== Sys2Proof/Laws/State.lean ====
section
/-! SUPPORT. One lemma per field of State per update, each true by rfl, so that no proof unfolds a record update. -/

namespace Sys2Proof.Machine

/-! ### respond -/

@[simp] theorem respond_cks (s : State) (c : ResultCode) (d : Word) : (s.respond c d).cks = s.cks := rfl
@[simp] theorem respond_seq (s : State) (c : ResultCode) (d : Word) : (s.respond c d).seq = s.seq := rfl
@[simp] theorem respond_cmd (s : State) (c : ResultCode) (d : Word) : (s.respond c d).cmd = s.cmd := rfl
@[simp] theorem respond_off (s : State) (c : ResultCode) (d : Word) : (s.respond c d).off = s.off := rfl
@[simp] theorem respond_plen (s : State) (c : ResultCode) (d : Word) : (s.respond c d).plen = s.plen := rfl
@[simp] theorem respond_len (s : State) (c : ResultCode) (d : Word) : (s.respond c d).len = s.len := rfl
@[simp] theorem respond_crc (s : State) (c : ResultCode) (d : Word) : (s.respond c d).crc = s.crc := rfl
@[simp] theorem respond_status (s : State) (c : ResultCode) (d : Word) : (s.respond c d).status = s.status := rfl
@[simp] theorem respond_buf (s : State) (c : ResultCode) (d : Word) : (s.respond c d).buf = s.buf := rfl
@[simp] theorem respond_epoch (s : State) (c : ResultCode) (d : Word) : (s.respond c d).epoch = s.epoch := rfl
@[simp] theorem respond_inputs (s : State) (c : ResultCode) (d : Word) : (s.respond c d).inputs = s.inputs := rfl
@[simp] theorem respond_responses (s : State) (c : ResultCode) (d : Word) : (s.respond c d).responses = s.responses ++ [⟨c, d⟩] := rfl
@[simp] theorem respond_classes (s : State) (c : ResultCode) (d : Word) : (s.respond c d).classes = s.classes := rfl

/-! ### setErr -/

@[simp] theorem setErr_cks (s : State) (c : ResultCode) : (s.setErr c).cks = s.cks := rfl
@[simp] theorem setErr_seq (s : State) (c : ResultCode) : (s.setErr c).seq = s.seq := rfl
@[simp] theorem setErr_cmd (s : State) (c : ResultCode) : (s.setErr c).cmd = s.cmd := rfl
@[simp] theorem setErr_off (s : State) (c : ResultCode) : (s.setErr c).off = s.off := rfl
@[simp] theorem setErr_plen (s : State) (c : ResultCode) : (s.setErr c).plen = s.plen := rfl
@[simp] theorem setErr_len (s : State) (c : ResultCode) : (s.setErr c).len = s.len := rfl
@[simp] theorem setErr_crc (s : State) (c : ResultCode) : (s.setErr c).crc = s.crc := rfl
@[simp] theorem setErr_status (s : State) (c : ResultCode) : (s.setErr c).status = putField s.status 0 4 c.number := rfl
@[simp] theorem setErr_buf (s : State) (c : ResultCode) : (s.setErr c).buf = s.buf := rfl
@[simp] theorem setErr_epoch (s : State) (c : ResultCode) : (s.setErr c).epoch = s.epoch := rfl
@[simp] theorem setErr_inputs (s : State) (c : ResultCode) : (s.setErr c).inputs = s.inputs := rfl
@[simp] theorem setErr_responses (s : State) (c : ResultCode) : (s.setErr c).responses = s.responses := rfl
@[simp] theorem setErr_classes (s : State) (c : ResultCode) : (s.setErr c).classes = s.classes := rfl

/-! ### setCrcOk -/

@[simp] theorem setCrcOk_cks (s : State) (b : Bool) : (s.setCrcOk b).cks = s.cks := rfl
@[simp] theorem setCrcOk_seq (s : State) (b : Bool) : (s.setCrcOk b).seq = s.seq := rfl
@[simp] theorem setCrcOk_cmd (s : State) (b : Bool) : (s.setCrcOk b).cmd = s.cmd := rfl
@[simp] theorem setCrcOk_off (s : State) (b : Bool) : (s.setCrcOk b).off = s.off := rfl
@[simp] theorem setCrcOk_plen (s : State) (b : Bool) : (s.setCrcOk b).plen = s.plen := rfl
@[simp] theorem setCrcOk_len (s : State) (b : Bool) : (s.setCrcOk b).len = s.len := rfl
@[simp] theorem setCrcOk_crc (s : State) (b : Bool) : (s.setCrcOk b).crc = s.crc := rfl
@[simp] theorem setCrcOk_status (s : State) (b : Bool) : (s.setCrcOk b).status = putField s.status 4 1 (BitVec.ofBool b) := rfl
@[simp] theorem setCrcOk_buf (s : State) (b : Bool) : (s.setCrcOk b).buf = s.buf := rfl
@[simp] theorem setCrcOk_epoch (s : State) (b : Bool) : (s.setCrcOk b).epoch = s.epoch := rfl
@[simp] theorem setCrcOk_inputs (s : State) (b : Bool) : (s.setCrcOk b).inputs = s.inputs := rfl
@[simp] theorem setCrcOk_responses (s : State) (b : Bool) : (s.setCrcOk b).responses = s.responses := rfl
@[simp] theorem setCrcOk_classes (s : State) (b : Bool) : (s.setCrcOk b).classes = s.classes := rfl

/-! ### setClass -/

@[simp] theorem setClass_cks (s : State) (k : CmdClass) : (s.setClass k).cks = s.cks := rfl
@[simp] theorem setClass_seq (s : State) (k : CmdClass) : (s.setClass k).seq = s.seq := rfl
@[simp] theorem setClass_cmd (s : State) (k : CmdClass) : (s.setClass k).cmd = s.cmd := rfl
@[simp] theorem setClass_off (s : State) (k : CmdClass) : (s.setClass k).off = s.off := rfl
@[simp] theorem setClass_plen (s : State) (k : CmdClass) : (s.setClass k).plen = s.plen := rfl
@[simp] theorem setClass_len (s : State) (k : CmdClass) : (s.setClass k).len = s.len := rfl
@[simp] theorem setClass_crc (s : State) (k : CmdClass) : (s.setClass k).crc = s.crc := rfl
@[simp] theorem setClass_status (s : State) (k : CmdClass) : (s.setClass k).status = putField s.status 8 3 k.number := rfl
@[simp] theorem setClass_buf (s : State) (k : CmdClass) : (s.setClass k).buf = s.buf := rfl
@[simp] theorem setClass_epoch (s : State) (k : CmdClass) : (s.setClass k).epoch = s.epoch := rfl
@[simp] theorem setClass_inputs (s : State) (k : CmdClass) : (s.setClass k).inputs = s.inputs := rfl
@[simp] theorem setClass_responses (s : State) (k : CmdClass) : (s.setClass k).responses = s.responses := rfl
@[simp] theorem setClass_classes (s : State) (k : CmdClass) : (s.setClass k).classes = s.classes := rfl

/-! ### setHerr -/

@[simp] theorem setHerr_cks (s : State) (b : Bool) : (s.setHerr b).cks = s.cks := rfl
@[simp] theorem setHerr_seq (s : State) (b : Bool) : (s.setHerr b).seq = s.seq := rfl
@[simp] theorem setHerr_cmd (s : State) (b : Bool) : (s.setHerr b).cmd = s.cmd := rfl
@[simp] theorem setHerr_off (s : State) (b : Bool) : (s.setHerr b).off = s.off := rfl
@[simp] theorem setHerr_plen (s : State) (b : Bool) : (s.setHerr b).plen = s.plen := rfl
@[simp] theorem setHerr_len (s : State) (b : Bool) : (s.setHerr b).len = s.len := rfl
@[simp] theorem setHerr_crc (s : State) (b : Bool) : (s.setHerr b).crc = s.crc := rfl
@[simp] theorem setHerr_status (s : State) (b : Bool) : (s.setHerr b).status = putField s.status 15 1 (BitVec.ofBool b) := rfl
@[simp] theorem setHerr_buf (s : State) (b : Bool) : (s.setHerr b).buf = s.buf := rfl
@[simp] theorem setHerr_epoch (s : State) (b : Bool) : (s.setHerr b).epoch = s.epoch := rfl
@[simp] theorem setHerr_inputs (s : State) (b : Bool) : (s.setHerr b).inputs = s.inputs := rfl
@[simp] theorem setHerr_responses (s : State) (b : Bool) : (s.setHerr b).responses = s.responses := rfl
@[simp] theorem setHerr_classes (s : State) (b : Bool) : (s.setHerr b).classes = s.classes := rfl

/-! ### setVerdict -/

@[simp] theorem setVerdict_cks (s : State) (c : ResultCode) (b : Bool) : (s.setVerdict c b).cks = s.cks := rfl
@[simp] theorem setVerdict_seq (s : State) (c : ResultCode) (b : Bool) : (s.setVerdict c b).seq = s.seq := rfl
@[simp] theorem setVerdict_cmd (s : State) (c : ResultCode) (b : Bool) : (s.setVerdict c b).cmd = s.cmd := rfl
@[simp] theorem setVerdict_off (s : State) (c : ResultCode) (b : Bool) : (s.setVerdict c b).off = s.off := rfl
@[simp] theorem setVerdict_plen (s : State) (c : ResultCode) (b : Bool) : (s.setVerdict c b).plen = s.plen := rfl
@[simp] theorem setVerdict_len (s : State) (c : ResultCode) (b : Bool) : (s.setVerdict c b).len = s.len := rfl
@[simp] theorem setVerdict_crc (s : State) (c : ResultCode) (b : Bool) : (s.setVerdict c b).crc = s.crc := rfl
@[simp] theorem setVerdict_status (s : State) (c : ResultCode) (b : Bool) : (s.setVerdict c b).status = putField (putField s.status 0 4 c.number) 4 1 (BitVec.ofBool b) := rfl
@[simp] theorem setVerdict_buf (s : State) (c : ResultCode) (b : Bool) : (s.setVerdict c b).buf = s.buf := rfl
@[simp] theorem setVerdict_epoch (s : State) (c : ResultCode) (b : Bool) : (s.setVerdict c b).epoch = s.epoch := rfl
@[simp] theorem setVerdict_inputs (s : State) (c : ResultCode) (b : Bool) : (s.setVerdict c b).inputs = s.inputs := rfl
@[simp] theorem setVerdict_responses (s : State) (c : ResultCode) (b : Bool) : (s.setVerdict c b).responses = s.responses := rfl
@[simp] theorem setVerdict_classes (s : State) (c : ResultCode) (b : Bool) : (s.setVerdict c b).classes = s.classes := rfl

/-! ### bufWrite -/

@[simp] theorem bufWrite_cks (s : State) (a : Nat) (b : Byte) : (s.bufWrite a b).cks = s.cks := rfl
@[simp] theorem bufWrite_seq (s : State) (a : Nat) (b : Byte) : (s.bufWrite a b).seq = s.seq := rfl
@[simp] theorem bufWrite_cmd (s : State) (a : Nat) (b : Byte) : (s.bufWrite a b).cmd = s.cmd := rfl
@[simp] theorem bufWrite_off (s : State) (a : Nat) (b : Byte) : (s.bufWrite a b).off = s.off := rfl
@[simp] theorem bufWrite_plen (s : State) (a : Nat) (b : Byte) : (s.bufWrite a b).plen = s.plen := rfl
@[simp] theorem bufWrite_len (s : State) (a : Nat) (b : Byte) : (s.bufWrite a b).len = s.len := rfl
@[simp] theorem bufWrite_crc (s : State) (a : Nat) (b : Byte) : (s.bufWrite a b).crc = s.crc := rfl
@[simp] theorem bufWrite_status (s : State) (a : Nat) (b : Byte) : (s.bufWrite a b).status = s.status := rfl
@[simp] theorem bufWrite_buf (s : State) (a : Nat) (b : Byte) : (s.bufWrite a b).buf = Memory.set s.buf a b := rfl
@[simp] theorem bufWrite_epoch (s : State) (a : Nat) (b : Byte) : (s.bufWrite a b).epoch = s.epoch := rfl
@[simp] theorem bufWrite_inputs (s : State) (a : Nat) (b : Byte) : (s.bufWrite a b).inputs = s.inputs := rfl
@[simp] theorem bufWrite_responses (s : State) (a : Nat) (b : Byte) : (s.bufWrite a b).responses = s.responses := rfl
@[simp] theorem bufWrite_classes (s : State) (a : Nat) (b : Byte) : (s.bufWrite a b).classes = s.classes := rfl

/-! ### memWrite -/

@[simp] theorem memWrite_cks (s : State) (a : Nat) (bs : List Byte) : (s.memWrite a bs).cks = s.cks := rfl
@[simp] theorem memWrite_seq (s : State) (a : Nat) (bs : List Byte) : (s.memWrite a bs).seq = s.seq := rfl
@[simp] theorem memWrite_cmd (s : State) (a : Nat) (bs : List Byte) : (s.memWrite a bs).cmd = s.cmd := rfl
@[simp] theorem memWrite_off (s : State) (a : Nat) (bs : List Byte) : (s.memWrite a bs).off = s.off := rfl
@[simp] theorem memWrite_plen (s : State) (a : Nat) (bs : List Byte) : (s.memWrite a bs).plen = s.plen := rfl
@[simp] theorem memWrite_len (s : State) (a : Nat) (bs : List Byte) : (s.memWrite a bs).len = s.len := rfl
@[simp] theorem memWrite_crc (s : State) (a : Nat) (bs : List Byte) : (s.memWrite a bs).crc = s.crc := rfl
@[simp] theorem memWrite_status (s : State) (a : Nat) (bs : List Byte) : (s.memWrite a bs).status = s.status := rfl
@[simp] theorem memWrite_buf (s : State) (a : Nat) (bs : List Byte) : (s.memWrite a bs).buf = Memory.setAll s.buf a bs := rfl
@[simp] theorem memWrite_epoch (s : State) (a : Nat) (bs : List Byte) : (s.memWrite a bs).epoch = s.epoch := rfl
@[simp] theorem memWrite_inputs (s : State) (a : Nat) (bs : List Byte) : (s.memWrite a bs).inputs = s.inputs := rfl
@[simp] theorem memWrite_responses (s : State) (a : Nat) (bs : List Byte) : (s.memWrite a bs).responses = s.responses := rfl
@[simp] theorem memWrite_classes (s : State) (a : Nat) (bs : List Byte) : (s.memWrite a bs).classes = s.classes := rfl

/-! ### setCrc -/

@[simp] theorem setCrc_cks (s : State) (v : Word) : (s.setCrc v).cks = s.cks := rfl
@[simp] theorem setCrc_seq (s : State) (v : Word) : (s.setCrc v).seq = s.seq := rfl
@[simp] theorem setCrc_cmd (s : State) (v : Word) : (s.setCrc v).cmd = s.cmd := rfl
@[simp] theorem setCrc_off (s : State) (v : Word) : (s.setCrc v).off = s.off := rfl
@[simp] theorem setCrc_plen (s : State) (v : Word) : (s.setCrc v).plen = s.plen := rfl
@[simp] theorem setCrc_len (s : State) (v : Word) : (s.setCrc v).len = s.len := rfl
@[simp] theorem setCrc_crc (s : State) (v : Word) : (s.setCrc v).crc = v := rfl
@[simp] theorem setCrc_status (s : State) (v : Word) : (s.setCrc v).status = s.status := rfl
@[simp] theorem setCrc_buf (s : State) (v : Word) : (s.setCrc v).buf = s.buf := rfl
@[simp] theorem setCrc_epoch (s : State) (v : Word) : (s.setCrc v).epoch = s.epoch := rfl
@[simp] theorem setCrc_inputs (s : State) (v : Word) : (s.setCrc v).inputs = s.inputs := rfl
@[simp] theorem setCrc_responses (s : State) (v : Word) : (s.setCrc v).responses = s.responses := rfl
@[simp] theorem setCrc_classes (s : State) (v : Word) : (s.setCrc v).classes = s.classes := rfl

/-! ### absorbFrame -/

@[simp] theorem absorbFrame_cks (cfg : Config) (s : State) : (s.absorbFrame cfg).cks = s.cks := rfl
@[simp] theorem absorbFrame_seq (cfg : Config) (s : State) : (s.absorbFrame cfg).seq = s.seq := rfl
@[simp] theorem absorbFrame_cmd (cfg : Config) (s : State) : (s.absorbFrame cfg).cmd = s.cmd := rfl
@[simp] theorem absorbFrame_off (cfg : Config) (s : State) : (s.absorbFrame cfg).off = s.off := rfl
@[simp] theorem absorbFrame_plen (cfg : Config) (s : State) : (s.absorbFrame cfg).plen = s.plen := rfl
@[simp] theorem absorbFrame_len (cfg : Config) (s : State) : (s.absorbFrame cfg).len = s.len := rfl
@[simp] theorem absorbFrame_crc (cfg : Config) (s : State) : (s.absorbFrame cfg).crc = crcRaw cfg (s.covered cfg) := rfl
@[simp] theorem absorbFrame_status (cfg : Config) (s : State) : (s.absorbFrame cfg).status = s.status := rfl
@[simp] theorem absorbFrame_buf (cfg : Config) (s : State) : (s.absorbFrame cfg).buf = s.buf := rfl
@[simp] theorem absorbFrame_epoch (cfg : Config) (s : State) : (s.absorbFrame cfg).epoch = s.epoch := rfl
@[simp] theorem absorbFrame_inputs (cfg : Config) (s : State) : (s.absorbFrame cfg).inputs = s.inputs := rfl
@[simp] theorem absorbFrame_responses (cfg : Config) (s : State) : (s.absorbFrame cfg).responses = s.responses := rfl
@[simp] theorem absorbFrame_classes (cfg : Config) (s : State) : (s.absorbFrame cfg).classes = s.classes := rfl

/-! ### buildHeader -/

@[simp] theorem buildHeader_cks (cfg : Config) (s : State) : (s.buildHeader cfg).cks = s.cks := rfl
@[simp] theorem buildHeader_seq (cfg : Config) (s : State) : (s.buildHeader cfg).seq = s.seq := rfl
@[simp] theorem buildHeader_cmd (cfg : Config) (s : State) : (s.buildHeader cfg).cmd = s.cmd := rfl
@[simp] theorem buildHeader_off (cfg : Config) (s : State) : (s.buildHeader cfg).off = s.off := rfl
@[simp] theorem buildHeader_plen (cfg : Config) (s : State) : (s.buildHeader cfg).plen = s.plen := rfl
@[simp] theorem buildHeader_len (cfg : Config) (s : State) : (s.buildHeader cfg).len = s.len := rfl
@[simp] theorem buildHeader_crc (cfg : Config) (s : State) : (s.buildHeader cfg).crc = s.crc := rfl
@[simp] theorem buildHeader_status (cfg : Config) (s : State) : (s.buildHeader cfg).status = s.status := rfl
@[simp] theorem buildHeader_epoch (cfg : Config) (s : State) : (s.buildHeader cfg).epoch = s.epoch := rfl
@[simp] theorem buildHeader_inputs (cfg : Config) (s : State) : (s.buildHeader cfg).inputs = s.inputs := rfl
@[simp] theorem buildHeader_responses (cfg : Config) (s : State) : (s.buildHeader cfg).responses = s.responses := rfl
@[simp] theorem buildHeader_classes (cfg : Config) (s : State) : (s.buildHeader cfg).classes = s.classes := rfl

/-! ### setEncLength -/

@[simp] theorem setEncLength_cks (cfg : Config) (s : State) : (s.setEncLength cfg).cks = s.cks := rfl
@[simp] theorem setEncLength_seq (cfg : Config) (s : State) : (s.setEncLength cfg).seq = s.seq := rfl
@[simp] theorem setEncLength_cmd (cfg : Config) (s : State) : (s.setEncLength cfg).cmd = s.cmd := rfl
@[simp] theorem setEncLength_off (cfg : Config) (s : State) : (s.setEncLength cfg).off = s.off := rfl
@[simp] theorem setEncLength_plen (cfg : Config) (s : State) : (s.setEncLength cfg).plen = s.plen := rfl
@[simp] theorem setEncLength_len (cfg : Config) (s : State) : (s.setEncLength cfg).len = BitVec.ofNat 32 (encLength cfg s) := rfl
@[simp] theorem setEncLength_crc (cfg : Config) (s : State) : (s.setEncLength cfg).crc = s.crc := rfl
@[simp] theorem setEncLength_status (cfg : Config) (s : State) : (s.setEncLength cfg).status = s.status := rfl
@[simp] theorem setEncLength_buf (cfg : Config) (s : State) : (s.setEncLength cfg).buf = s.buf := rfl
@[simp] theorem setEncLength_epoch (cfg : Config) (s : State) : (s.setEncLength cfg).epoch = s.epoch := rfl
@[simp] theorem setEncLength_inputs (cfg : Config) (s : State) : (s.setEncLength cfg).inputs = s.inputs := rfl
@[simp] theorem setEncLength_responses (cfg : Config) (s : State) : (s.setEncLength cfg).responses = s.responses := rfl
@[simp] theorem setEncLength_classes (cfg : Config) (s : State) : (s.setEncLength cfg).classes = s.classes := rfl

/-! ### storeChecksum -/

@[simp] theorem storeChecksum_cks (cfg : Config) (s : State) : (s.storeChecksum cfg).cks = s.checksum cfg := rfl
@[simp] theorem storeChecksum_seq (cfg : Config) (s : State) : (s.storeChecksum cfg).seq = s.seq := rfl
@[simp] theorem storeChecksum_cmd (cfg : Config) (s : State) : (s.storeChecksum cfg).cmd = s.cmd := rfl
@[simp] theorem storeChecksum_off (cfg : Config) (s : State) : (s.storeChecksum cfg).off = s.off := rfl
@[simp] theorem storeChecksum_plen (cfg : Config) (s : State) : (s.storeChecksum cfg).plen = s.plen := rfl
@[simp] theorem storeChecksum_len (cfg : Config) (s : State) : (s.storeChecksum cfg).len = s.len := rfl
@[simp] theorem storeChecksum_crc (cfg : Config) (s : State) : (s.storeChecksum cfg).crc = s.crc := rfl
@[simp] theorem storeChecksum_status (cfg : Config) (s : State) : (s.storeChecksum cfg).status = s.status := rfl
@[simp] theorem storeChecksum_buf (cfg : Config) (s : State) : (s.storeChecksum cfg).buf = Memory.setAll s.buf (checksumAt cfg) (enc32 cfg (s.checksum cfg)) := rfl
@[simp] theorem storeChecksum_epoch (cfg : Config) (s : State) : (s.storeChecksum cfg).epoch = s.epoch := rfl
@[simp] theorem storeChecksum_inputs (cfg : Config) (s : State) : (s.storeChecksum cfg).inputs = s.inputs := rfl
@[simp] theorem storeChecksum_responses (cfg : Config) (s : State) : (s.storeChecksum cfg).responses = s.responses := rfl
@[simp] theorem storeChecksum_classes (cfg : Config) (s : State) : (s.storeChecksum cfg).classes = s.classes := rfl

/-! ### extractFields -/

@[simp] theorem extractFields_cks (cfg : Config) (s : State) : (s.extractFields cfg).cks = s.readField cfg (checksumAt cfg) := rfl
@[simp] theorem extractFields_seq (cfg : Config) (s : State) : (s.extractFields cfg).seq = s.readField cfg (sequenceAt cfg) := rfl
@[simp] theorem extractFields_cmd (cfg : Config) (s : State) : (s.extractFields cfg).cmd = s.readTag (commandAt cfg) := rfl
@[simp] theorem extractFields_off (cfg : Config) (s : State) : (s.extractFields cfg).off = s.readField cfg (offsetAt cfg) := rfl
@[simp] theorem extractFields_plen (cfg : Config) (s : State) : (s.extractFields cfg).plen = BitVec.ofNat 32 (s.len.toNat - cfg.hdr) := rfl
@[simp] theorem extractFields_len (cfg : Config) (s : State) : (s.extractFields cfg).len = s.len := rfl
@[simp] theorem extractFields_crc (cfg : Config) (s : State) : (s.extractFields cfg).crc = s.crc := rfl
@[simp] theorem extractFields_status (cfg : Config) (s : State) : (s.extractFields cfg).status = s.status := rfl
@[simp] theorem extractFields_buf (cfg : Config) (s : State) : (s.extractFields cfg).buf = s.buf := rfl
@[simp] theorem extractFields_epoch (cfg : Config) (s : State) : (s.extractFields cfg).epoch = s.epoch := rfl
@[simp] theorem extractFields_inputs (cfg : Config) (s : State) : (s.extractFields cfg).inputs = s.inputs := rfl
@[simp] theorem extractFields_responses (cfg : Config) (s : State) : (s.extractFields cfg).responses = s.responses := rfl
@[simp] theorem extractFields_classes (cfg : Config) (s : State) : (s.extractFields cfg).classes = s.classes := rfl

/-! ### resetRegisters -/

@[simp] theorem resetRegisters_cks (cfg : Config) (s : State) : (s.resetRegisters cfg).cks = 0 := rfl
@[simp] theorem resetRegisters_seq (cfg : Config) (s : State) : (s.resetRegisters cfg).seq = 0 := rfl
@[simp] theorem resetRegisters_cmd (cfg : Config) (s : State) : (s.resetRegisters cfg).cmd = 0 := rfl
@[simp] theorem resetRegisters_off (cfg : Config) (s : State) : (s.resetRegisters cfg).off = 0 := rfl
@[simp] theorem resetRegisters_plen (cfg : Config) (s : State) : (s.resetRegisters cfg).plen = 0 := rfl
@[simp] theorem resetRegisters_len (cfg : Config) (s : State) : (s.resetRegisters cfg).len = 0 := rfl
@[simp] theorem resetRegisters_crc (cfg : Config) (s : State) : (s.resetRegisters cfg).crc = cfg.crcInit := rfl
@[simp] theorem resetRegisters_status (cfg : Config) (s : State) : (s.resetRegisters cfg).status = 0 := rfl
@[simp] theorem resetRegisters_buf (cfg : Config) (s : State) : (s.resetRegisters cfg).buf = s.buf := rfl
@[simp] theorem resetRegisters_epoch (cfg : Config) (s : State) : (s.resetRegisters cfg).epoch = s.epoch := rfl
@[simp] theorem resetRegisters_inputs (cfg : Config) (s : State) : (s.resetRegisters cfg).inputs = s.inputs := rfl
@[simp] theorem resetRegisters_responses (cfg : Config) (s : State) : (s.resetRegisters cfg).responses = s.responses := rfl
@[simp] theorem resetRegisters_classes (cfg : Config) (s : State) : (s.resetRegisters cfg).classes = s.classes := rfl

/-! ### resetEvent -/

@[simp] theorem resetEvent_cks (cfg : Config) (s : State) : (s.resetEvent cfg).cks = 0 := rfl
@[simp] theorem resetEvent_seq (cfg : Config) (s : State) : (s.resetEvent cfg).seq = 0 := rfl
@[simp] theorem resetEvent_cmd (cfg : Config) (s : State) : (s.resetEvent cfg).cmd = 0 := rfl
@[simp] theorem resetEvent_off (cfg : Config) (s : State) : (s.resetEvent cfg).off = 0 := rfl
@[simp] theorem resetEvent_plen (cfg : Config) (s : State) : (s.resetEvent cfg).plen = 0 := rfl
@[simp] theorem resetEvent_len (cfg : Config) (s : State) : (s.resetEvent cfg).len = 0 := rfl
@[simp] theorem resetEvent_crc (cfg : Config) (s : State) : (s.resetEvent cfg).crc = cfg.crcInit := rfl
@[simp] theorem resetEvent_status (cfg : Config) (s : State) : (s.resetEvent cfg).status = 0 := rfl
@[simp] theorem resetEvent_buf (cfg : Config) (s : State) : (s.resetEvent cfg).buf = [] := rfl
@[simp] theorem resetEvent_epoch (cfg : Config) (s : State) : (s.resetEvent cfg).epoch = s.epoch + 1 := rfl
@[simp] theorem resetEvent_inputs (cfg : Config) (s : State) : (s.resetEvent cfg).inputs = s.inputs := rfl
@[simp] theorem resetEvent_responses (cfg : Config) (s : State) : (s.resetEvent cfg).responses = s.responses := rfl
@[simp] theorem resetEvent_classes (cfg : Config) (s : State) : (s.resetEvent cfg).classes = s.classes := rfl

/-! ### writeReg -/

@[simp] theorem writeReg_buf (s : State) (r : Reg) (v : Word) : (s.writeReg r v).buf = s.buf := by cases r <;> rfl
@[simp] theorem writeReg_epoch (s : State) (r : Reg) (v : Word) : (s.writeReg r v).epoch = s.epoch := by cases r <;> rfl
@[simp] theorem writeReg_inputs (s : State) (r : Reg) (v : Word) : (s.writeReg r v).inputs = s.inputs := by cases r <;> rfl
@[simp] theorem writeReg_responses (s : State) (r : Reg) (v : Word) : (s.writeReg r v).responses = s.responses := by cases r <;> rfl
@[simp] theorem writeReg_classes (s : State) (r : Reg) (v : Word) : (s.writeReg r v).classes = s.classes := by cases r <;> rfl

theorem readReg_writeReg (s : State) (r q : Reg) (v : Word) :
    (s.writeReg r v).readReg q = if q = r then v else s.readReg q := by
  cases r <;> cases q <;> rfl

/-! ### encodeFrame: the registers a successful ENC leaves alone -/

@[simp] theorem encodeFrame_seq (cfg : Config) (s : State) : (s.encodeFrame cfg).seq = s.seq := rfl
@[simp] theorem encodeFrame_cmd (cfg : Config) (s : State) : (s.encodeFrame cfg).cmd = s.cmd := rfl
@[simp] theorem encodeFrame_off (cfg : Config) (s : State) : (s.encodeFrame cfg).off = s.off := rfl
@[simp] theorem encodeFrame_plen (cfg : Config) (s : State) : (s.encodeFrame cfg).plen = s.plen := rfl
@[simp] theorem encodeFrame_status (cfg : Config) (s : State) : (s.encodeFrame cfg).status = s.status := rfl
@[simp] theorem encodeFrame_epoch (cfg : Config) (s : State) : (s.encodeFrame cfg).epoch = s.epoch := rfl
@[simp] theorem encodeFrame_inputs (cfg : Config) (s : State) : (s.encodeFrame cfg).inputs = s.inputs := rfl
@[simp] theorem encodeFrame_responses (cfg : Config) (s : State) : (s.encodeFrame cfg).responses = s.responses := rfl
@[simp] theorem encodeFrame_classes (cfg : Config) (s : State) : (s.encodeFrame cfg).classes = s.classes := rfl
@[simp] theorem encodeFrame_len (cfg : Config) (s : State) : (s.encodeFrame cfg).len = BitVec.ofNat 32 (encLength cfg s) := rfl

end Sys2Proof.Machine
end

