-- ==== Sys2Proof/Laws/Memory.lean ====
section
/-! SUPPORT. The laws of the buffer: a read after a write, the bytes a write leaves alone, and that every memory operation keeps
the canonical form. -/

namespace Sys2Proof.Machine

/-! ### The list -/

theorem get?_set (m : Memory) (a c : Nat) (b : Byte) :
    Memory.get? (Memory.set m a b) c = if c = a then some b else Memory.get? m c := by
  induction m with
  | nil => simp [Memory.set, Memory.get?, eq_comm]
  | cons xy m ih =>
    obtain ⟨x, y⟩ := xy
    simp only [Memory.set]
    split
    · simp [Memory.get?, eq_comm]
    · split
      · rename_i _ hax
        subst hax
        by_cases h : c = a
        · simp [Memory.get?, h]
        · simp [Memory.get?, h, Ne.symm h]
      · by_cases h : x = c
        · subst h; simp [Memory.get?]; omega
        · simp [Memory.get?, h, ih]

theorem get?_setAll (m : Memory) (a c : Nat) (bs : List Byte) :
    Memory.get? (Memory.setAll m a bs) c = if h : a ≤ c ∧ c < a + bs.length then some (bs[c - a]'(by omega)) else Memory.get? m c := by
  induction bs generalizing m a with
  | nil => simp [Memory.setAll]
  | cons b bs ih =>
    simp only [Memory.setAll, ih, get?_set, List.length_cons]
    by_cases h1 : c = a
    · subst h1; simp
    · by_cases h2 : a ≤ c ∧ c < a + (bs.length + 1)
      · have h3 : a + 1 ≤ c ∧ c < a + 1 + bs.length := by omega
        rw [dif_pos h3, dif_pos h2]
        have h4 : c - a = (c - (a + 1)) + 1 := by omega
        simp [h4]
      · have h3 : ¬(a + 1 ≤ c ∧ c < a + 1 + bs.length) := by omega
        rw [dif_neg h3, dif_neg h2, if_neg h1]

/-! ### The canonical form -/

theorem risingFrom_mono {lo lo' hi : Nat} {m : Memory} (h : lo' ≤ lo) (hm : Memory.risingFrom lo hi m = true) :
    Memory.risingFrom lo' hi m = true := by
  cases m with
  | nil => rfl
  | cons xy m =>
    obtain ⟨x, y⟩ := xy
    simp only [Memory.risingFrom, Bool.and_eq_true, decide_eq_true_eq] at hm ⊢
    exact ⟨⟨by omega, hm.1.2⟩, hm.2⟩

theorem risingFrom_set {lo hi : Nat} {m : Memory} {a : Nat} {b : Byte} (ha : lo ≤ a) (hb : a < hi)
    (hm : Memory.risingFrom lo hi m = true) : Memory.risingFrom lo hi (Memory.set m a b) = true := by
  induction m generalizing lo with
  | nil => simp [Memory.set, Memory.risingFrom, ha, hb]
  | cons xy m ih =>
    obtain ⟨x, y⟩ := xy
    simp only [Memory.risingFrom, Bool.and_eq_true, decide_eq_true_eq] at hm
    simp only [Memory.set]
    split
    · simp only [Memory.risingFrom, Bool.and_eq_true, decide_eq_true_eq]
      exact ⟨⟨ha, hb⟩, ⟨by omega, hm.1.2⟩, hm.2⟩
    · split
      · subst_vars
        simp only [Memory.risingFrom, Bool.and_eq_true, decide_eq_true_eq]
        exact ⟨⟨ha, hb⟩, hm.2⟩
      · simp only [Memory.risingFrom, Bool.and_eq_true, decide_eq_true_eq]
        exact ⟨hm.1, ih (by omega) hm.2⟩

/-- Writing a byte of `BUF` keeps the canonical form. -/
theorem wf_set {m : Memory} {a : Nat} {b : Byte} (ha : a < 1024) (hm : Memory.wf m = true) :
    Memory.wf (Memory.set m a b) = true :=
  risingFrom_set (Nat.zero_le a) ha hm

/-- Writing a sequence of bytes of `BUF` keeps the canonical form. -/
theorem wf_setAll {m : Memory} {a : Nat} {bs : List Byte} (ha : a + bs.length ≤ 1024) (hm : Memory.wf m = true) :
    Memory.wf (Memory.setAll m a bs) = true := by
  induction bs generalizing m a with
  | nil => exact hm
  | cons b bs ih =>
    simp only [List.length_cons] at ha
    exact ih (by omega) (wf_set (by omega) hm)

theorem wf_nil : Memory.wf [] = true := rfl

theorem wf_reset : Memory.wf State.reset.buf = true := rfl

/-- In the canonical form two lists that answer every address alike are the same list: equal memories are equal data. -/
theorem risingFrom_get?_none {lo hi : Nat} {m : Memory} {a : Nat} (ha : a < lo) (hm : Memory.risingFrom lo hi m = true) :
    Memory.get? m a = none := by
  induction m generalizing lo with
  | nil => rfl
  | cons xy m ih =>
    obtain ⟨x, y⟩ := xy
    simp only [Memory.risingFrom, Bool.and_eq_true, decide_eq_true_eq] at hm
    simp only [Memory.get?]
    rw [if_neg (by omega)]
    exact ih (by omega) hm.2

theorem risingFrom_ext {lo lo' hi : Nat} {m n : Memory} (hm : Memory.risingFrom lo hi m = true)
    (hn : Memory.risingFrom lo' hi n = true) (h : ∀ a, Memory.get? m a = Memory.get? n a) : m = n := by
  induction m generalizing n lo lo' with
  | nil =>
    cases n with
    | nil => rfl
    | cons xy n => have := h xy.1; simp [Memory.get?] at this
  | cons xy m ih =>
    obtain ⟨x, y⟩ := xy
    cases n with
    | nil => have := h x; simp [Memory.get?] at this
    | cons uv n =>
      obtain ⟨u, v⟩ := uv
      simp only [Memory.risingFrom, Bool.and_eq_true, decide_eq_true_eq] at hm hn
      have hx : x = u := by
        rcases Nat.lt_trichotomy x u with hlt | heq | hgt
        · have := h x
          simp only [Memory.get?, if_true, if_neg (show ¬u = x by omega)] at this
          rw [risingFrom_get?_none (show x < u + 1 by omega) hn.2] at this
          exact absurd this (by simp)
        · exact heq
        · have := h u
          simp only [Memory.get?, if_true, if_neg (show ¬x = u by omega)] at this
          rw [risingFrom_get?_none (show u < x + 1 by omega) hm.2] at this
          exact absurd this (by simp)
      subst hx
      have hy : y = v := by have := h x; simpa [Memory.get?] using this
      subst hy
      congr 1
      refine ih hm.2 hn.2 fun a => ?_
      by_cases ha : a = x
      · subst ha
        rw [risingFrom_get?_none (Nat.lt_succ_self a) hm.2, risingFrom_get?_none (Nat.lt_succ_self a) hn.2]
      · have := h a
        simpa [Memory.get?, Ne.symm ha] using this

/-- Equal memories are equal data. -/
theorem wf_ext {m n : Memory} (hm : Memory.wf m = true) (hn : Memory.wf n = true)
    (h : ∀ a, Memory.get? m a = Memory.get? n a) : m = n :=
  risingFrom_ext hm hn h

/-! ### The buffer -/

/-- A buffer byte depends on the byte list and the reset counter alone. -/
theorem bufRead_congr {s t : State} (hb : t.buf = s.buf) (he : t.epoch = s.epoch) (a : Nat) : t.bufRead a = s.bufRead a := by
  simp [State.bufRead, hb, he]

theorem bufRead_bufWrite (s : State) (a c : Nat) (b : Byte) :
    (s.bufWrite a b).bufRead c = if c = a then b else s.bufRead c := by
  simp only [State.bufRead, bufWrite_buf, bufWrite_epoch, get?_set]
  by_cases h : c = a <;> simp [h]

theorem bufRead_memWrite (s : State) (a c : Nat) (bs : List Byte) :
    (s.memWrite a bs).bufRead c = if h : a ≤ c ∧ c < a + bs.length then bs[c - a]'(by omega) else s.bufRead c := by
  simp only [State.bufRead, memWrite_buf, memWrite_epoch, get?_setAll]
  by_cases h : a ≤ c ∧ c < a + bs.length
  · rw [dif_pos h, dif_pos h]
  · rw [dif_neg h, dif_neg h]

/-- A write leaves every other byte alone. -/
theorem bufRead_memWrite_outside {s : State} {a c : Nat} {bs : List Byte} (h : ¬(a ≤ c ∧ c < a + bs.length)) :
    (s.memWrite a bs).bufRead c = s.bufRead c := by
  rw [bufRead_memWrite, dif_neg h]

theorem memRead_length (s : State) (a n : Nat) : (s.memRead a n).length = n := by simp [State.memRead]

theorem memRead_getElem (s : State) (a n k : Nat) (h : k < (s.memRead a n).length) : (s.memRead a n)[k] = s.bufRead (a + k) := by
  simp [State.memRead]

/-- Two states whose bytes agree on a range read the same sequence there. -/
theorem memRead_congr {s t : State} {a n : Nat} (h : ∀ k, a ≤ k → k < a + n → t.bufRead k = s.bufRead k) :
    t.memRead a n = s.memRead a n := by
  simp only [State.memRead]
  refine List.map_congr_left fun k hk => ?_
  rw [List.mem_range'_1] at hk
  exact h k hk.1 hk.2

theorem memRead_append (s : State) (a m n : Nat) : s.memRead a (m + n) = s.memRead a m ++ s.memRead (a + m) n := by
  simp only [State.memRead, ← List.map_append]
  congr 1
  rw [List.range'_append_1]

/-- Reading back what was written. -/
theorem memRead_memWrite (s : State) (a : Nat) (bs : List Byte) : (s.memWrite a bs).memRead a bs.length = bs := by
  refine List.ext_getElem (memRead_length _ _ _) fun k h1 h2 => ?_
  rw [memRead_getElem, bufRead_memWrite, dif_pos ⟨by omega, by omega⟩]
  congr 1
  omega

end Sys2Proof.Machine
end

