-- ==== Sys2Proof/Laws/Status.lean ====
section
/-! SUPPORT. The laws of the `STATUS` fields: a field reads back what was put, and putting one field leaves the others and the
reserved bits alone (spec/10_state.md R21, R26). -/

namespace Sys2Proof.Machine

theorem getLsbD_fieldMask (lo n i : Nat) :
    (fieldMask lo n).getLsbD i = (decide (i < 32) && decide (lo ≤ i) && decide (i < lo + n)) := by
  simp only [fieldMask, BitVec.getLsbD_shiftLeft, BitVec.getLsbD_setWidth, BitVec.getLsbD_allOnes]
  by_cases h1 : i < 32 <;> by_cases h2 : lo ≤ i <;> by_cases h3 : i < lo + n <;> simp [h1, h2, h3] <;> omega

theorem getLsbD_putField (w : Word) (lo n : Nat) (v : BitVec n) (i : Nat) (hi : i < 32) :
    (putField w lo n v).getLsbD i = if lo ≤ i ∧ i < lo + n then v.getLsbD (i - lo) else w.getLsbD i := by
  simp only [putField, BitVec.getLsbD_or, BitVec.getLsbD_and, BitVec.getLsbD_not, getLsbD_fieldMask,
    BitVec.getLsbD_shiftLeft, BitVec.getLsbD_setWidth]
  by_cases h2 : lo ≤ i
  · by_cases h3 : i < lo + n
    · have h4 : i - lo < 32 := by omega
      simp [h2, h3, hi, h4]
    · have h4 : v.getLsbD (i - lo) = false := BitVec.getLsbD_of_ge v _ (by omega)
      simp [h2, h3, hi, h4]
  · have h3 : i < lo := by omega
    simp [h2, hi, h3]

theorem getLsbD_getField (w : Word) (lo n i : Nat) : (getField w lo n).getLsbD i = (decide (i < n) && w.getLsbD (lo + i)) := by
  simp [getField, BitVec.getLsbD_extractLsb']

/-- A field reads back what was put. -/
theorem getField_putField_same (w : Word) (lo n : Nat) (v : BitVec n) (h : lo + n ≤ 32) :
    getField (putField w lo n v) lo n = v := by
  refine BitVec.eq_of_getLsbD_eq fun i hi => ?_
  rw [getLsbD_getField, getLsbD_putField _ _ _ _ _ (by omega), if_pos (by omega)]
  simp [hi]

/-- Putting one field leaves a field that does not overlap it alone. -/
theorem getField_putField_other (w : Word) (lo n lo' n' : Nat) (v : BitVec n) (h : lo' + n' ≤ 32)
    (hd : lo' + n' ≤ lo ∨ lo + n ≤ lo') : getField (putField w lo n v) lo' n' = getField w lo' n' := by
  refine BitVec.eq_of_getLsbD_eq fun i hi => ?_
  rw [getLsbD_getField, getLsbD_getField, getLsbD_putField _ _ _ _ _ (by omega), if_neg (by omega)]

theorem ofBool_beq_one (b : Bool) : (BitVec.ofBool b == 1#1) = b := by cases b <;> rfl

/-! ### The four fields -/

@[simp] theorem statusErr_putErr (w : Word) (v : BitVec 4) : statusErr (putField w 0 4 v) = v :=
  getField_putField_same w 0 4 v (by omega)

@[simp] theorem statusErr_putCrcOk (w : Word) (v : BitVec 1) : statusErr (putField w 4 1 v) = statusErr w :=
  getField_putField_other w 4 1 0 4 v (by omega) (by omega)

@[simp] theorem statusErr_putClass (w : Word) (v : BitVec 3) : statusErr (putField w 8 3 v) = statusErr w :=
  getField_putField_other w 8 3 0 4 v (by omega) (by omega)

@[simp] theorem statusErr_putHerr (w : Word) (v : BitVec 1) : statusErr (putField w 15 1 v) = statusErr w :=
  getField_putField_other w 15 1 0 4 v (by omega) (by omega)

@[simp] theorem statusCrcOk_putErr (w : Word) (v : BitVec 4) : statusCrcOk (putField w 0 4 v) = statusCrcOk w := by
  simp only [statusCrcOk, getField_putField_other w 0 4 4 1 v (by omega) (by omega)]

@[simp] theorem statusCrcOk_putCrcOk (w : Word) (b : Bool) : statusCrcOk (putField w 4 1 (BitVec.ofBool b)) = b := by
  simp only [statusCrcOk, getField_putField_same w 4 1 _ (by omega), ofBool_beq_one]

@[simp] theorem statusCrcOk_putClass (w : Word) (v : BitVec 3) : statusCrcOk (putField w 8 3 v) = statusCrcOk w := by
  simp only [statusCrcOk, getField_putField_other w 8 3 4 1 v (by omega) (by omega)]

@[simp] theorem statusCrcOk_putHerr (w : Word) (v : BitVec 1) : statusCrcOk (putField w 15 1 v) = statusCrcOk w := by
  simp only [statusCrcOk, getField_putField_other w 15 1 4 1 v (by omega) (by omega)]

@[simp] theorem statusClass_putErr (w : Word) (v : BitVec 4) : statusClass (putField w 0 4 v) = statusClass w :=
  getField_putField_other w 0 4 8 3 v (by omega) (by omega)

@[simp] theorem statusClass_putCrcOk (w : Word) (v : BitVec 1) : statusClass (putField w 4 1 v) = statusClass w :=
  getField_putField_other w 4 1 8 3 v (by omega) (by omega)

@[simp] theorem statusClass_putClass (w : Word) (v : BitVec 3) : statusClass (putField w 8 3 v) = v :=
  getField_putField_same w 8 3 v (by omega)

@[simp] theorem statusClass_putHerr (w : Word) (v : BitVec 1) : statusClass (putField w 15 1 v) = statusClass w :=
  getField_putField_other w 15 1 8 3 v (by omega) (by omega)

@[simp] theorem statusHerr_putErr (w : Word) (v : BitVec 4) : statusHerr (putField w 0 4 v) = statusHerr w := by
  simp only [statusHerr, getField_putField_other w 0 4 15 1 v (by omega) (by omega)]

@[simp] theorem statusHerr_putCrcOk (w : Word) (v : BitVec 1) : statusHerr (putField w 4 1 v) = statusHerr w := by
  simp only [statusHerr, getField_putField_other w 4 1 15 1 v (by omega) (by omega)]

@[simp] theorem statusHerr_putClass (w : Word) (v : BitVec 3) : statusHerr (putField w 8 3 v) = statusHerr w := by
  simp only [statusHerr, getField_putField_other w 8 3 15 1 v (by omega) (by omega)]

@[simp] theorem statusHerr_putHerr (w : Word) (b : Bool) : statusHerr (putField w 15 1 (BitVec.ofBool b)) = b := by
  simp only [statusHerr, getField_putField_same w 15 1 _ (by omega), ofBool_beq_one]

/-! `BitVec.ofBool` of a literal is simplified to a numeral, so the two flags have their laws for numerals as well. -/

@[simp] theorem statusCrcOk_putOne (w : Word) : statusCrcOk (putField w 4 1 1#1) = true := statusCrcOk_putCrcOk w true

@[simp] theorem statusCrcOk_putZero (w : Word) : statusCrcOk (putField w 4 1 0#1) = false := statusCrcOk_putCrcOk w false

@[simp] theorem statusHerr_putOne (w : Word) : statusHerr (putField w 15 1 1#1) = true := statusHerr_putHerr w true

@[simp] theorem statusHerr_putZero (w : Word) : statusHerr (putField w 15 1 0#1) = false := statusHerr_putHerr w false

/-! ### The reserved bits -/

theorem getLsbD_statusReserved (w : Word) (i : Nat) (hi : i < 32) :
    (statusReserved w).getLsbD i = (w.getLsbD i && decide ((5 ≤ i ∧ i < 8) ∨ (11 ≤ i ∧ i < 15) ∨ 16 ≤ i)) := by
  simp only [statusReserved, BitVec.getLsbD_and, BitVec.getLsbD_or, getLsbD_fieldMask]
  congr 1
  rw [Bool.eq_iff_iff]
  simp only [Bool.or_eq_true, Bool.and_eq_true, decide_eq_true_eq]
  omega

theorem statusReserved_putField (w : Word) (lo n : Nat) (v : BitVec n)
    (h : ∀ i, lo ≤ i → i < lo + n → ¬((5 ≤ i ∧ i < 8) ∨ (11 ≤ i ∧ i < 15) ∨ 16 ≤ i)) :
    statusReserved (putField w lo n v) = statusReserved w := by
  refine BitVec.eq_of_getLsbD_eq fun i hi => ?_
  rw [getLsbD_statusReserved _ _ hi, getLsbD_statusReserved _ _ hi, getLsbD_putField _ _ _ _ _ hi]
  by_cases h1 : lo ≤ i ∧ i < lo + n
  · simp [h i h1.1 h1.2]
  · rw [if_neg h1]

@[simp] theorem statusReserved_putErr (w : Word) (v : BitVec 4) : statusReserved (putField w 0 4 v) = statusReserved w :=
  statusReserved_putField w 0 4 v (by omega)

@[simp] theorem statusReserved_putCrcOk (w : Word) (v : BitVec 1) : statusReserved (putField w 4 1 v) = statusReserved w :=
  statusReserved_putField w 4 1 v (by omega)

@[simp] theorem statusReserved_putClass (w : Word) (v : BitVec 3) : statusReserved (putField w 8 3 v) = statusReserved w :=
  statusReserved_putField w 8 3 v (by omega)

@[simp] theorem statusReserved_putHerr (w : Word) (v : BitVec 1) : statusReserved (putField w 15 1 v) = statusReserved w :=
  statusReserved_putField w 15 1 v (by omega)

/-! ### The register at 0 (10_state.md R31) -/

@[simp] theorem statusErr_zero : statusErr 0#32 = 0#4 := by decide
@[simp] theorem statusCrcOk_zero : statusCrcOk 0#32 = false := by decide
@[simp] theorem statusClass_zero : statusClass 0#32 = 0#3 := by decide
@[simp] theorem statusHerr_zero : statusHerr 0#32 = false := by decide
@[simp] theorem statusReserved_zero : statusReserved 0#32 = 0#32 := by decide

/-- The four fields and the reserved bits are the whole register. -/
theorem status_ext {w v : Word} (h1 : statusErr w = statusErr v) (h2 : statusCrcOk w = statusCrcOk v)
    (h3 : statusClass w = statusClass v) (h4 : statusHerr w = statusHerr v) (h5 : statusReserved w = statusReserved v) :
    w = v := by
  have bit : ∀ lo n i, getField w lo n = getField v lo n → i < n → w.getLsbD (lo + i) = v.getLsbD (lo + i) := by
    intro lo n i h hi
    have := congrArg (fun x => x.getLsbD i) h
    simp only [getLsbD_getField] at this
    simpa [hi] using this
  have one : ∀ lo, (getField w lo 1 == 1#1) = (getField v lo 1 == 1#1) → getField w lo 1 = getField v lo 1 := by
    intro lo h
    rcases BitVec.eq_zero_or_eq_one (getField w lo 1) with ha | ha <;>
      rcases BitVec.eq_zero_or_eq_one (getField v lo 1) with hb | hb <;> simp_all
  refine BitVec.eq_of_getLsbD_eq fun i hi => ?_
  by_cases hr : (5 ≤ i ∧ i < 8) ∨ (11 ≤ i ∧ i < 15) ∨ 16 ≤ i
  · have := congrArg (fun x => x.getLsbD i) h5
    simpa [getLsbD_statusReserved _ _ hi, hr] using this
  · have hc : i < 4 ∨ i = 4 ∨ (8 ≤ i ∧ i < 11) ∨ i = 15 := by omega
    rcases hc with hc | hc | hc | hc
    · simpa using bit 0 4 i h1 hc
    · subst hc; exact bit 4 1 0 (one 4 h2) (by omega)
    · have := bit 8 3 (i - 8) h3 (by omega)
      rwa [show 8 + (i - 8) = i by omega] at this
    · subst hc; exact bit 15 1 0 (one 15 h4) (by omega)

end Sys2Proof.Machine
end

