-- ==== Sys2Proof/Laws/Ops.lean ====
section
/-! SUPPORT. One lemma per shared operation that says everything it can do, for proofs to cite instead of unfolding it. -/

namespace Sys2Proof.Machine

/-! ### Failures -/

/-- A failure answers the code with datum 0 and does nothing else. -/
@[simp] theorem fail_eq (c : ResultCode) (s : State) : fail c s = .next (s.respond c 0) := rfl

/-- A misused request sets `HERR`, answers the code with datum 0 and does nothing else. -/
@[simp] theorem misuse_eq (c : ResultCode) (s : State) : misuse c s = .next ((s.setHerr true).respond c 0) := rfl

@[simp] theorem classifyWord_eq (cfg : Config) (v : Word) (s : State) :
    classifyWord cfg v s = .next { s with classes := s.classes ++ [classify cfg v] } := rfl

/-! ### CRC on a mismatch (log 7) -/

/-- On this hardware a mismatch leaves the recomputed value in `CRC`. -/
@[simp] theorem absorbMismatch_hw (s : State) : s.absorbMismatch Config.hw = s.absorbFrame Config.hw := rfl

/-- Under the other reading a mismatch changes nothing. -/
@[simp] theorem absorbMismatch_hwKeepsCrc (s : State) : s.absorbMismatch Config.hwKeepsCrc = s := rfl

/-! ### The length check -/

theorem lengthError_cases (s : State) :
    (s.len.toNat < 16 ∧ lengthError Config.hw s = some .tooShort) ∨
      (1024 < s.len.toNat ∧ lengthError Config.hw s = some .oversized) ∨
        (16 ≤ s.len.toNat ∧ s.len.toNat ≤ 1024 ∧ lengthError Config.hw s = none) := by
  simp only [lengthError, hw_hdr, hw_maxFrame]
  by_cases h1 : s.len.toNat < 16
  · simp [h1]
  · by_cases h2 : 1024 < s.len.toNat
    · simp [h1, h2]
    · simp [h1, h2]; omega

/-- The length check looks at `LEN` alone. -/
theorem lengthError_congr (cfg : Config) {s t : State} (h : t.len = s.len) : lengthError cfg t = lengthError cfg s := by
  simp only [lengthError, h]

/-! ### Register numbers -/

theorem regOfAddr_none {a : Addr} (h : 8 ≤ a.toNat) : regOfAddr Config.hw a = none := by
  simp only [regOfAddr, hw_nreg]
  exact if_neg (by omega)

theorem regOfAddr_some {a : Addr} (h : a.toNat < 8) : regOfAddr Config.hw a = regOrder[a.toNat]? := by
  simp only [regOfAddr, hw_nreg]
  exact if_pos h

theorem regOfAddr_regAddr (r : Reg) : regOfAddr Config.hw (regAddr r) = some r := by cases r <;> rfl

/-! ### The buffer under register updates -/

@[simp] theorem bufRead_respond (s : State) (c : ResultCode) (d : Word) (a : Nat) :
    (s.respond c d).bufRead a = s.bufRead a := rfl
@[simp] theorem bufRead_setErr (s : State) (c : ResultCode) (a : Nat) : (s.setErr c).bufRead a = s.bufRead a := rfl
@[simp] theorem bufRead_setCrcOk (s : State) (b : Bool) (a : Nat) : (s.setCrcOk b).bufRead a = s.bufRead a := rfl
@[simp] theorem bufRead_setClass (s : State) (k : CmdClass) (a : Nat) : (s.setClass k).bufRead a = s.bufRead a := rfl
@[simp] theorem bufRead_setHerr (s : State) (b : Bool) (a : Nat) : (s.setHerr b).bufRead a = s.bufRead a := rfl
@[simp] theorem bufRead_setVerdict (s : State) (c : ResultCode) (b : Bool) (a : Nat) :
    (s.setVerdict c b).bufRead a = s.bufRead a := rfl
@[simp] theorem bufRead_setCrc (s : State) (v : Word) (a : Nat) : (s.setCrc v).bufRead a = s.bufRead a := rfl
@[simp] theorem bufRead_absorbFrame (cfg : Config) (s : State) (a : Nat) : (s.absorbFrame cfg).bufRead a = s.bufRead a := rfl
@[simp] theorem bufRead_setEncLength (cfg : Config) (s : State) (a : Nat) : (s.setEncLength cfg).bufRead a = s.bufRead a := rfl
@[simp] theorem bufRead_extractFields (cfg : Config) (s : State) (a : Nat) : (s.extractFields cfg).bufRead a = s.bufRead a := rfl
@[simp] theorem bufRead_resetRegisters (cfg : Config) (s : State) (a : Nat) : (s.resetRegisters cfg).bufRead a = s.bufRead a := rfl
@[simp] theorem bufRead_writeReg (s : State) (r : Reg) (v : Word) (a : Nat) : (s.writeReg r v).bufRead a = s.bufRead a := by
  cases r <;> rfl

/-- After the reset event every byte is a fresh free value. -/
theorem bufRead_resetEvent (cfg : Config) (s : State) (a : Nat) :
    (s.resetEvent cfg).bufRead a = Config.bufResetByte (s.epoch + 1) a := rfl

/-! ### Building a frame -/

@[simp] theorem enc32_length (cfg : Config) (v : Word) : (enc32 cfg v).length = 4 := by
  simp only [enc32]; split <;> rfl

@[simp] theorem tagbytes_length (v : Word) : (tagbytes v).length = 4 := rfl

/-- The three header writes change `BUF[4..15]` only. -/
theorem bufRead_buildHeader_outside {s : State} {a : Nat} (h : a < 4 ∨ 16 ≤ a) :
    (s.buildHeader Config.hw).bufRead a = s.bufRead a := by
  simp only [State.buildHeader, sequenceAt_eq, commandAt_eq, offsetAt_eq, hw_field]
  rw [bufRead_memWrite_outside (by simp; omega), bufRead_memWrite_outside (by simp; omega),
    bufRead_memWrite_outside (by simp; omega)]

/-- `BUF[4..15]` after the header writes, in terms of the registers before them. -/
theorem bufRead_buildHeader (s : State) (k : Nat) (hk : k < 4) :
    (s.buildHeader Config.hw).bufRead (4 + k) = (enc32 Config.hw s.seq)[k]'(by simpa using hk) ∧
      (s.buildHeader Config.hw).bufRead (8 + k) = (tagbytes s.cmd)[k]'(by simpa using hk) ∧
        (s.buildHeader Config.hw).bufRead (12 + k) = (enc32 Config.hw s.off)[k]'(by simpa using hk) := by
  simp only [State.buildHeader, sequenceAt_eq, commandAt_eq, offsetAt_eq, hw_field]
  refine ⟨?_, ?_, ?_⟩
  · rw [bufRead_memWrite_outside (by simp; omega), bufRead_memWrite_outside (by simp; omega), bufRead_memWrite,
      dif_pos (by simp; omega)]
    simp
  · rw [bufRead_memWrite_outside (by simp; omega), bufRead_memWrite, dif_pos (by simp; omega)]
    simp
  · rw [bufRead_memWrite, dif_pos (by simp; omega)]
    simp

/-- A successful `ENC` changes `BUF[0..15]` only. -/
theorem bufRead_encodeFrame_outside {s : State} {a : Nat} (h : 16 ≤ a) :
    (s.encodeFrame Config.hw).bufRead a = s.bufRead a := by
  simp only [State.encodeFrame, State.storeChecksum, checksumAt_eq]
  rw [bufRead_memWrite_outside (by simp; omega)]
  exact bufRead_buildHeader_outside (Or.inr h)

/-- From byte 4 on the encoded frame is what the header writes left. -/
theorem bufRead_encodeFrame_covered {s : State} {a : Nat} (h : 4 ≤ a) :
    (s.encodeFrame Config.hw).bufRead a = (s.buildHeader Config.hw).bufRead a := by
  simp only [State.encodeFrame, State.storeChecksum, checksumAt_eq]
  rw [bufRead_memWrite_outside (by simp; omega)]
  rfl

/-! ### The frame's covered bytes -/

/-- The covered bytes depend on `LEN` and on `BUF[4..LEN-1]` alone (30_encoding.md R71). -/
theorem covered_congr {cfg : Config} {s t : State} (hl : t.len = s.len)
    (h : ∀ a, cfg.field ≤ a → a < s.len.toNat → t.bufRead a = s.bufRead a) : t.covered cfg = s.covered cfg := by
  simp only [State.covered, sequenceAt_eq, hl]
  exact memRead_congr fun k h1 h2 => h k h1 (by omega)

/-! ### Serving inputs -/

theorem step_idle {s : State} (h : s.inputs = []) : step s = .next s := by simp [step, State.fetch, h]

theorem step_reset {s : State} {rest : List Input} (h : s.inputs = .reset :: rest) :
    step s = .next (({ s with inputs := rest } : State).resetEvent Config.hw) := by simp [step, State.fetch, h, serve]

theorem step_word_ok {s : State} {c : Code} {rest : List Input} {i : Instr} (h : s.inputs = .word c :: rest)
    (hd : decode c = .ok i) : step s = exec i { s with inputs := rest } := by simp [step, State.fetch, h, serve, hd]

theorem step_word_error {s : State} {c : Code} {rest : List Input} {r : Reject} (h : s.inputs = .word c :: rest)
    (hd : decode c = .error r) : step s = rejected r { s with inputs := rest } := by simp [step, State.fetch, h, serve, hd]

/-- A table word placed for the next step is what the next step decodes. -/
theorem step_withFetchWord (s : State) (nbits w : Nat) :
    step (s.withFetchWord nbits w) = serve (.word (codeOfTableWord nbits w)) s := by
  simp [step, State.fetch, State.withFetchWord]

end Sys2Proof.Machine
end

