-- ==== Sys2Proof/Laws/Exec.lean ====
section
/-! SUPPORT. What each meaning answers on each of its paths, as one equation, so that no proof unfolds a meaning. -/

namespace Sys2Proof.Machine

/-! ### The length check on its three paths -/

theorem lengthError_legal {s : State} (h : LengthLegal s) : lengthError Config.hw s = none := by
  obtain ⟨h1, h2⟩ := h
  rcases lengthError_cases s with ⟨h3, _⟩ | ⟨h3, _⟩ | ⟨_, _, h3⟩
  · omega
  · omega
  · exact h3

theorem lengthError_short {s : State} (h : s.len.toNat < 16) : lengthError Config.hw s = some .tooShort := by
  rcases lengthError_cases s with ⟨_, h3⟩ | ⟨h3, _⟩ | ⟨h3, _⟩
  · exact h3
  · omega
  · omega

theorem lengthError_over {s : State} (h : 1024 < s.len.toNat) : lengthError Config.hw s = some .oversized := by
  rcases lengthError_cases s with ⟨h3, _⟩ | ⟨_, h3⟩ | ⟨_, h3, _⟩
  · omega
  · exact h3
  · omega

/-! ### System, CRC unit -/

theorem exec_nop (s : State) : exec .nop s = .next (s.respond .none 0) := rfl

theorem exec_clr (s : State) : exec .clr s = .next ((s.resetRegisters Config.hw).respond .none 0) := rfl

theorem exec_crci (s : State) : exec .crci s = .next ((s.setCrc 0xFFFFFFFF#32).respond .none 0) := rfl

theorem exec_crcb (b : Byte) (s : State) :
    exec (.crcb b) s = .next ((s.setCrc (crcByte Config.hw s.crc b)).respond .none 0) := rfl

theorem exec_crcf (s : State) : exec .crcf s = .next (s.respond .none (s.checksum Config.hw)) := rfl

theorem exec_crcp_legal {s : State} (h : LengthLegal s) : exec .crcp s =
    .next (((s.absorbFrame Config.hw).setVerdict .none false).respond .none ((s.absorbFrame Config.hw).checksum Config.hw)) := by
  simp only [exec, execCrcp, execCrcpWith, lengthError_legal h]

theorem exec_crcp_short {s : State} (h : s.len.toNat < 16) :
    exec .crcp s = .next ((s.setVerdict .tooShort false).respond .tooShort 0) := by
  simp only [exec, execCrcp, execCrcpWith, lengthError_short h, fail_eq]

theorem exec_crcp_over {s : State} (h : 1024 < s.len.toNat) :
    exec .crcp s = .next ((s.setVerdict .oversized false).respond .oversized 0) := by
  simp only [exec, execCrcp, execCrcpWith, lengthError_over h, fail_eq]

/-! ### Access -/

theorem exec_wrb {a : Addr} (b : Byte) (s : State) (h : a.toNat < 1024) :
    exec (.wrb a b) s = .next ((s.bufWrite a.toNat b).respond .none 0) := by
  simp only [exec, execWrb, execWrbWith, hw_maxFrame]
  exact if_neg (by omega)

theorem exec_wrb_bad {a : Addr} (b : Byte) (s : State) (h : 1024 ≤ a.toNat) :
    exec (.wrb a b) s = misuse .badAddress s := by
  simp only [exec, execWrb, execWrbWith, hw_maxFrame]
  exact if_pos h

theorem exec_rdb {a : Addr} (s : State) (h : a.toNat < 1024) :
    exec (.rdb a) s = .next (s.respond .none ((s.bufRead a.toNat).setWidth 32)) := by
  simp only [exec, execRdb, execRdbWith, hw_maxFrame]
  exact if_neg (by omega)

theorem exec_rdb_bad {a : Addr} (s : State) (h : 1024 ≤ a.toNat) : exec (.rdb a) s = misuse .badAddress s := by
  simp only [exec, execRdb, execRdbWith, hw_maxFrame]
  exact if_pos h

theorem exec_wrr {a : Addr} {r : Reg} (d : Word) (s : State) (h : regOfAddr Config.hw a = some r)
    (hw : regReadOnly r = false) : exec (.wrr a d) s = .next ((s.writeReg r d).respond .none 0) := by
  simp [exec, execWrr, execWrrWith, h, hw]

theorem exec_wrr_readOnly {a : Addr} {r : Reg} (d : Word) (s : State) (h : regOfAddr Config.hw a = some r)
    (hw : regReadOnly r = true) : exec (.wrr a d) s = misuse .readOnly s := by
  simp [exec, execWrr, execWrrWith, h, hw]

theorem exec_wrr_bad {a : Addr} (d : Word) (s : State) (h : 8 ≤ a.toNat) : exec (.wrr a d) s = misuse .badAddress s := by
  simp [exec, execWrr, execWrrWith, regOfAddr_none h]

theorem exec_rdr {a : Addr} {r : Reg} (s : State) (h : regOfAddr Config.hw a = some r) :
    exec (.rdr a) s = .next (s.respond .none (s.readReg r)) := by
  simp [exec, execRdr, execRdrWith, h]

theorem exec_rdr_bad {a : Addr} (s : State) (h : 8 ≤ a.toNat) : exec (.rdr a) s = misuse .badAddress s := by
  simp [exec, execRdr, execRdrWith, regOfAddr_none h]

/-! ### The codec -/

theorem exec_enc {s : State} (h : 16 + s.plen.toNat ≤ 1024) : exec .enc s =
    .next ((((s.encodeFrame Config.hw).setVerdict .none false).setClass (classify Config.hw s.cmd)).respond .none
      (s.encodeFrame Config.hw).cks) := by
  simp only [exec, execEnc, execEncWith, encLength, hw_hdr, hw_maxFrame]
  exact if_neg (by omega)

theorem exec_enc_over {s : State} (h : 1024 < 16 + s.plen.toNat) :
    exec .enc s = .next (((s.setVerdict .oversized false).setClass .unknown).respond .oversized 0) := by
  simp only [exec, execEnc, execEncWith, encLength, hw_hdr, hw_maxFrame]
  exact if_pos h

theorem exec_dec_legal {s : State} (h : LengthLegal s) : exec .dec s =
    .next ((((s.extractFields Config.hw).setVerdict .none false).setClass
      (classify Config.hw (s.extractFields Config.hw).cmd)).respond .none
        ((classify Config.hw (s.extractFields Config.hw).cmd).number.setWidth 32)) := by
  simp only [exec, execDec, execDecWith, lengthError_legal h]

theorem exec_dec_short {s : State} (h : s.len.toNat < 16) :
    exec .dec s = .next (((s.setVerdict .tooShort false).setClass .unknown).respond .tooShort 0) := by
  simp only [exec, execDec, execDecWith, lengthError_short h, fail_eq]

theorem exec_dec_over {s : State} (h : 1024 < s.len.toNat) :
    exec .dec s = .next (((s.setVerdict .oversized false).setClass .unknown).respond .oversized 0) := by
  simp only [exec, execDec, execDecWith, lengthError_over h, fail_eq]

theorem exec_vfy_match {s : State} (h : LengthLegal s) (hv : FrameVerifies Config.hw s) :
    exec .vfy s = .next (((s.absorbFrame Config.hw).setVerdict .none true).respond .none 1) := by
  simp only [exec, execVfy, execVfyWith, lengthError_legal h]
  exact if_pos hv

theorem exec_vfy_mismatch {s : State} (h : LengthLegal s) (hv : ¬FrameVerifies Config.hw s) :
    exec .vfy s = .next (((s.absorbFrame Config.hw).setVerdict .checksumMismatch false).respond .checksumMismatch 0) := by
  simp only [exec, execVfy, execVfyWith, lengthError_legal h]
  exact if_neg hv

theorem exec_vfy_short {s : State} (h : s.len.toNat < 16) :
    exec .vfy s = .next ((s.setVerdict .tooShort false).respond .tooShort 0) := by
  simp only [exec, execVfy, execVfyWith, lengthError_short h, fail_eq]

theorem exec_vfy_over {s : State} (h : 1024 < s.len.toNat) :
    exec .vfy s = .next ((s.setVerdict .oversized false).respond .oversized 0) := by
  simp only [exec, execVfy, execVfyWith, lengthError_over h, fail_eq]

end Sys2Proof.Machine
end

