-- ==== Sys2Proof/Laws/Frames.lean ====
section
/-! SUPPORT. The frame predicates of Safety.lean spelled out, the frame a successful `ENC` leaves, one step of a run, when a
pseudo-operation expands, and what the well-formedness check says of each instruction. -/

namespace Sys2Proof.Machine

/-- The frame of the registers, one register at a time. -/
theorem regsSameExcept_iff {l : List Reg} {s t : State} : RegsSameExcept l s t ↔
    (.cks ∉ l → t.cks = s.cks) ∧ (.seq ∉ l → t.seq = s.seq) ∧ (.cmd ∉ l → t.cmd = s.cmd) ∧ (.off ∉ l → t.off = s.off) ∧
      (.plen ∉ l → t.plen = s.plen) ∧ (.len ∉ l → t.len = s.len) ∧ (.crc ∉ l → t.crc = s.crc) ∧
        (.status ∉ l → t.status = s.status) := by
  constructor
  · intro h
    exact ⟨h .cks, h .seq, h .cmd, h .off, h .plen, h .len, h .crc, h .status⟩
  · rintro ⟨h0, h1, h2, h3, h4, h5, h6, h7⟩ r
    cases r
    · exact h0
    · exact h1
    · exact h2
    · exact h3
    · exact h4
    · exact h5
    · exact h6
    · exact h7

theorem bufSame_refl (s : State) : BufSame s s := fun _ => rfl

theorem bufSame_trans {s t u : State} (h : BufSame s t) (h' : BufSame t u) : BufSame s u := fun a => (h' a).trans (h a)

theorem bufSame_of_eq {s t : State} (hb : t.buf = s.buf) (he : t.epoch = s.epoch) : BufSame s t := bufRead_congr hb he

/-! ### What a successful `ENC` leaves (41_codec.md R113) -/

theorem memRead_four (s : State) (a : Nat) :
    s.memRead a 4 = [s.bufRead a, s.bufRead (a + 1), s.bufRead (a + 2), s.bufRead (a + 3)] := by
  simp [State.memRead, List.range']

/-- `BUF[4..15]` after the header writes. -/
theorem memRead_buildHeader (s : State) : (s.buildHeader Config.hw).memRead 4 4 = enc32 Config.hw s.seq ∧
    (s.buildHeader Config.hw).memRead 8 4 = tagbytes s.cmd ∧ (s.buildHeader Config.hw).memRead 12 4 = enc32 Config.hw s.off := by
  refine ⟨?_, ?_, ?_⟩ <;> refine List.ext_getElem (by simp [memRead_length]) fun k h1 h2 => ?_ <;> rw [memRead_getElem] <;>
    have hk := bufRead_buildHeader s k (by simpa [memRead_length] using h1)
  · exact hk.1
  · exact hk.2.1
  · exact hk.2.2

/-- The encoded frame: its length, its fields, its payload, its CRC and its checksum. -/
theorem encodeFrame_spec (s : State) (h : 16 + s.plen.toNat ≤ 1024) :
    (s.encodeFrame Config.hw).len.toNat = 16 + s.plen.toNat ∧
    (s.encodeFrame Config.hw).memRead 0 4 = enc32 Config.hw (s.encodeFrame Config.hw).cks ∧
    (s.encodeFrame Config.hw).memRead 4 4 = enc32 Config.hw s.seq ∧
    (s.encodeFrame Config.hw).memRead 8 4 = tagbytes s.cmd ∧
    (s.encodeFrame Config.hw).memRead 12 4 = enc32 Config.hw s.off ∧
    (∀ a, 16 ≤ a → (s.encodeFrame Config.hw).bufRead a = s.bufRead a) ∧
    (s.encodeFrame Config.hw).crc = crcRaw Config.hw ((s.encodeFrame Config.hw).memRead 4 (12 + s.plen.toNat)) ∧
    (s.encodeFrame Config.hw).cks = (s.encodeFrame Config.hw).crc ^^^ 0xFFFFFFFF#32 := by
  have hb : ∀ a n, 4 ≤ a → (s.encodeFrame Config.hw).memRead a n = (s.buildHeader Config.hw).memRead a n :=
    fun a n ha => memRead_congr fun k h1 _ => bufRead_encodeFrame_covered (Nat.le_trans ha h1)
  have hl : ((s.buildHeader Config.hw).setEncLength Config.hw).len.toNat = 16 + s.plen.toNat := by
    simp [State.setEncLength, encLength, State.buildHeader]; omega
  obtain ⟨h4, h8, h12⟩ := memRead_buildHeader s
  refine ⟨hl, ?_, (hb _ _ (by omega)).trans h4, (hb _ _ (by omega)).trans h8, (hb _ _ (by omega)).trans h12,
    fun _ ha => bufRead_encodeFrame_outside ha, ?_, rfl⟩
  · have := memRead_memWrite
      { ((s.buildHeader Config.hw).setEncLength Config.hw).absorbFrame Config.hw with
        cks := (((s.buildHeader Config.hw).setEncLength Config.hw).absorbFrame Config.hw).checksum Config.hw } 0
      (enc32 Config.hw ((((s.buildHeader Config.hw).setEncLength Config.hw).absorbFrame Config.hw).checksum Config.hw))
    rw [enc32_length] at this
    exact this
  · rw [hb _ _ (by omega)]
    show crcRaw _ (State.covered _ _) = _
    simp only [State.covered, sequenceAt_eq, hw_field, hl, show 16 + s.plen.toNat - 4 = 12 + s.plen.toNat by omega]
    rfl

/-! ### Runs -/

/-- One step of a run. -/
theorem run_succ_next {s t : State} (n : Nat) (h : step s = .next t) :
    Host.Core.run Sys2Proof.core (n + 1) s = Host.Core.run Sys2Proof.core n t := by
  simp only [Host.Core.run, show Sys2Proof.core.step s = step s from rfl, h]

theorem run_zero (s : State) : Host.Core.run Sys2Proof.core 0 s = .next s := rfl

/-! ### Pseudo-operations (30_encoding.md R80) -/

@[simp] theorem writesFrom_length (a : Nat) (bs : List Byte) : (writesFrom a bs).length = bs.length := by
  induction bs generalizing a with
  | nil => rfl
  | cons b bs ih => simp [writesFrom, ih]

/-- Where every address fits in 16 bits `LDBYTES` expands. -/
theorem ldbytes_some {a : Addr} {bs : List Byte} (h : a.toNat + bs.length ≤ 65536) :
    ldbytes a bs = some (writesFrom a.toNat bs) := if_pos h

/-- Where the bytes can all be addressed `LOADFRAME` expands. -/
theorem loadframe_some {bs : List Byte} (h : bs.length ≤ 65536) :
    loadframe bs = some (writesFrom 0 bs ++ [.wrr 5 (BitVec.ofNat 32 bs.length)]) := by
  simp only [loadframe, ldbytes_some (a := 0) (bs := bs) (by simpa using h), Option.map_some]
  rfl

/-! ### Well-formedness, in numbers (70_reset_and_hazards.md R183) -/

theorem wellFormed_wrb {a : Addr} {b : Byte} : (Instr.wrb a b).wellFormed = true ↔ a.toNat < 1024 :=
  decide_eq_true_iff

theorem wellFormed_rdb {a : Addr} : (Instr.rdb a).wellFormed = true ↔ a.toNat < 1024 := decide_eq_true_iff

theorem wellFormed_rdr {a : Addr} : (Instr.rdr a).wellFormed = true ↔ a.toNat < 8 := decide_eq_true_iff

theorem wellFormed_wrr {a : Addr} {d : Word} : (Instr.wrr a d).wellFormed = true ↔
    a.toNat < 8 ∧ a.toNat ≠ 0 ∧ a.toNat ≠ 6 ∧ a.toNat ≠ 7 := by
  have h : wfRegNumber a = true ↔ a.toNat < 8 := decide_eq_true_iff
  simp only [Instr.wellFormed, Bool.and_eq_true, h, wfWritable, Bool.not_eq_true', Bool.or_eq_false_iff,
    beq_eq_false_iff_ne, ne_eq, and_assoc]

end Sys2Proof.Machine
end

