-- ==== Sys2Proof/Laws/Inversion.lean ====
section
/-! SUPPORT. Said once: every instruction goes on to a next state, and this is the list of what it can be. Claims about all
instructions are case analyses on `ExecCase`, with no unfolding of a meaning. -/

namespace Sys2Proof.Machine

/-- `ExecCase s i t`: one of the ways instruction `i` can take state `s` to state `t`, with the condition under which it does. -/
inductive ExecCase (s : State) : Instr → State → Prop where
  | nop : ExecCase s .nop (s.respond .none 0)
  | clr : ExecCase s .clr ((s.resetRegisters Config.hw).respond .none 0)
  | crci : ExecCase s .crci ((s.setCrc 0xFFFFFFFF#32).respond .none 0)
  | crcb (b : Byte) : ExecCase s (.crcb b) ((s.setCrc (crcByte Config.hw s.crc b)).respond .none 0)
  | crcf : ExecCase s .crcf (s.respond .none (s.checksum Config.hw))
  | crcpLegal (h : LengthLegal s) :
      ExecCase s .crcp
        (((s.absorbFrame Config.hw).setVerdict .none false).respond .none ((s.absorbFrame Config.hw).checksum Config.hw))
  | crcpShort (h : s.len.toNat < 16) : ExecCase s .crcp ((s.setVerdict .tooShort false).respond .tooShort 0)
  | crcpOver (h : 1024 < s.len.toNat) : ExecCase s .crcp ((s.setVerdict .oversized false).respond .oversized 0)
  | wrb (a : Addr) (b : Byte) (h : a.toNat < 1024) : ExecCase s (.wrb a b) ((s.bufWrite a.toNat b).respond .none 0)
  | wrbBad (a : Addr) (b : Byte) (h : 1024 ≤ a.toNat) : ExecCase s (.wrb a b) ((s.setHerr true).respond .badAddress 0)
  | rdb (a : Addr) (h : a.toNat < 1024) : ExecCase s (.rdb a) (s.respond .none ((s.bufRead a.toNat).setWidth 32))
  | rdbBad (a : Addr) (h : 1024 ≤ a.toNat) : ExecCase s (.rdb a) ((s.setHerr true).respond .badAddress 0)
  | wrrSeq (a : Addr) (d : Word) (h : a.toNat = 1) : ExecCase s (.wrr a d) ({ s with seq := d }.respond .none 0)
  | wrrCmd (a : Addr) (d : Word) (h : a.toNat = 2) : ExecCase s (.wrr a d) ({ s with cmd := d }.respond .none 0)
  | wrrOff (a : Addr) (d : Word) (h : a.toNat = 3) : ExecCase s (.wrr a d) ({ s with off := d }.respond .none 0)
  | wrrPlen (a : Addr) (d : Word) (h : a.toNat = 4) : ExecCase s (.wrr a d) ({ s with plen := d }.respond .none 0)
  | wrrLen (a : Addr) (d : Word) (h : a.toNat = 5) : ExecCase s (.wrr a d) ({ s with len := d }.respond .none 0)
  | wrrReadOnly (a : Addr) (d : Word) (h : a.toNat = 0 ∨ a.toNat = 6 ∨ a.toNat = 7) :
      ExecCase s (.wrr a d) ((s.setHerr true).respond .readOnly 0)
  | wrrBad (a : Addr) (d : Word) (h : 8 ≤ a.toNat) : ExecCase s (.wrr a d) ((s.setHerr true).respond .badAddress 0)
  | rdr (a : Addr) (r : Reg) (h : a.toNat < 8) (hr : regOfAddr Config.hw a = some r) :
      ExecCase s (.rdr a) (s.respond .none (s.readReg r))
  | rdrBad (a : Addr) (h : 8 ≤ a.toNat) : ExecCase s (.rdr a) ((s.setHerr true).respond .badAddress 0)
  | encFits (h : 16 + s.plen.toNat ≤ 1024) :
      ExecCase s .enc
        ((((s.encodeFrame Config.hw).setVerdict .none false).setClass (classify Config.hw s.cmd)).respond .none
          (s.encodeFrame Config.hw).cks)
  | encOver (h : 1024 < 16 + s.plen.toNat) :
      ExecCase s .enc (((s.setVerdict .oversized false).setClass .unknown).respond .oversized 0)
  | decLegal (h : LengthLegal s) :
      ExecCase s .dec
        ((((s.extractFields Config.hw).setVerdict .none false).setClass
          (classify Config.hw (s.extractFields Config.hw).cmd)).respond .none
            ((classify Config.hw (s.extractFields Config.hw).cmd).number.setWidth 32))
  | decShort (h : s.len.toNat < 16) :
      ExecCase s .dec (((s.setVerdict .tooShort false).setClass .unknown).respond .tooShort 0)
  | decOver (h : 1024 < s.len.toNat) :
      ExecCase s .dec (((s.setVerdict .oversized false).setClass .unknown).respond .oversized 0)
  | vfyMatch (h : LengthLegal s) (hv : FrameVerifies Config.hw s) :
      ExecCase s .vfy (((s.absorbFrame Config.hw).setVerdict .none true).respond .none 1)
  | vfyMismatch (h : LengthLegal s) (hv : ¬FrameVerifies Config.hw s) :
      ExecCase s .vfy (((s.absorbFrame Config.hw).setVerdict .checksumMismatch false).respond .checksumMismatch 0)
  | vfyShort (h : s.len.toNat < 16) : ExecCase s .vfy ((s.setVerdict .tooShort false).respond .tooShort 0)
  | vfyOver (h : 1024 < s.len.toNat) : ExecCase s .vfy ((s.setVerdict .oversized false).respond .oversized 0)
  | name : ExecCase s .name { s with classes := s.classes ++ [.name] }
  | size : ExecCase s .size { s with classes := s.classes ++ [.size] }
  | hash : ExecCase s .hash { s with classes := s.classes ++ [.hash] }
  | data : ExecCase s .data { s with classes := s.classes ++ [.data] }
  | stop : ExecCase s .stop { s with classes := s.classes ++ [.stop] }

theorem length_trichotomy (s : State) : s.len.toNat < 16 ∨ 1024 < s.len.toNat ∨ LengthLegal s := by
  unfold LengthLegal; omega

theorem exec_cases_wrr (a : Addr) (d : Word) (s : State) : ∃ t, exec (.wrr a d) s = .next t ∧ ExecCase s (.wrr a d) t := by
  by_cases h : a.toNat < 8
  · have hs := regOfAddr_some h
    by_cases ho : a.toNat = 0 ∨ a.toNat = 6 ∨ a.toNat = 7
    · have hr : ∃ r, regOfAddr Config.hw a = some r ∧ regReadOnly r = true := by
        rw [hs]; rcases ho with h | h | h <;> rw [h] <;> exact ⟨_, rfl, rfl⟩
      obtain ⟨r, hr, hr2⟩ := hr
      exact ⟨_, exec_wrr_readOnly d s hr hr2, .wrrReadOnly a d ho⟩
    · have h5 : a.toNat = 1 ∨ a.toNat = 2 ∨ a.toNat = 3 ∨ a.toNat = 4 ∨ a.toNat = 5 := by omega
      rcases h5 with h1 | h1 | h1 | h1 | h1 <;> rw [h1] at hs
      · exact ⟨_, exec_wrr (r := .seq) d s hs rfl, .wrrSeq a d h1⟩
      · exact ⟨_, exec_wrr (r := .cmd) d s hs rfl, .wrrCmd a d h1⟩
      · exact ⟨_, exec_wrr (r := .off) d s hs rfl, .wrrOff a d h1⟩
      · exact ⟨_, exec_wrr (r := .plen) d s hs rfl, .wrrPlen a d h1⟩
      · exact ⟨_, exec_wrr (r := .len) d s hs rfl, .wrrLen a d h1⟩
  · exact ⟨_, exec_wrr_bad d s (by omega), .wrrBad a d (by omega)⟩

theorem exec_cases_rdr (a : Addr) (s : State) : ∃ t, exec (.rdr a) s = .next t ∧ ExecCase s (.rdr a) t := by
  by_cases h : a.toNat < 8
  · have hr : ∃ r, regOfAddr Config.hw a = some r := by
      rw [regOfAddr_some h]
      exact ⟨_, List.getElem?_eq_getElem (show a.toNat < regOrder.length from h)⟩
    obtain ⟨r, hr⟩ := hr
    exact ⟨_, exec_rdr s hr, .rdr a r h hr⟩
  · exact ⟨_, exec_rdr_bad s (by omega), .rdrBad a (by omega)⟩

/-- Every instruction goes on to one of the states listed. -/
theorem exec_cases (i : Instr) (s : State) : ∃ t, exec i s = .next t ∧ ExecCase s i t := by
  cases i with
  | nop => exact ⟨_, exec_nop s, .nop⟩
  | clr => exact ⟨_, exec_clr s, .clr⟩
  | crci => exact ⟨_, exec_crci s, .crci⟩
  | crcb b => exact ⟨_, exec_crcb b s, .crcb b⟩
  | crcf => exact ⟨_, exec_crcf s, .crcf⟩
  | crcp =>
    rcases length_trichotomy s with h | h | h
    · exact ⟨_, exec_crcp_short h, .crcpShort h⟩
    · exact ⟨_, exec_crcp_over h, .crcpOver h⟩
    · exact ⟨_, exec_crcp_legal h, .crcpLegal h⟩
  | wrb a b =>
    by_cases h : a.toNat < 1024
    · exact ⟨_, exec_wrb b s h, .wrb a b h⟩
    · exact ⟨_, exec_wrb_bad b s (by omega), .wrbBad a b (by omega)⟩
  | rdb a =>
    by_cases h : a.toNat < 1024
    · exact ⟨_, exec_rdb s h, .rdb a h⟩
    · exact ⟨_, exec_rdb_bad s (by omega), .rdbBad a (by omega)⟩
  | wrr a d => exact exec_cases_wrr a d s
  | rdr a => exact exec_cases_rdr a s
  | enc =>
    by_cases h : 16 + s.plen.toNat ≤ 1024
    · exact ⟨_, exec_enc h, .encFits h⟩
    · exact ⟨_, exec_enc_over (by omega), .encOver (by omega)⟩
  | dec =>
    rcases length_trichotomy s with h | h | h
    · exact ⟨_, exec_dec_short h, .decShort h⟩
    · exact ⟨_, exec_dec_over h, .decOver h⟩
    · exact ⟨_, exec_dec_legal h, .decLegal h⟩
  | vfy =>
    rcases length_trichotomy s with h | h | h
    · exact ⟨_, exec_vfy_short h, .vfyShort h⟩
    · exact ⟨_, exec_vfy_over h, .vfyOver h⟩
    · by_cases hv : FrameVerifies Config.hw s
      · exact ⟨_, exec_vfy_match h hv, .vfyMatch h hv⟩
      · exact ⟨_, exec_vfy_mismatch h hv, .vfyMismatch h hv⟩
  | name => exact ⟨_, rfl, .name⟩
  | size => exact ⟨_, rfl, .size⟩
  | hash => exact ⟨_, rfl, .hash⟩
  | data => exact ⟨_, rfl, .data⟩
  | stop => exact ⟨_, rfl, .stop⟩

/-- The inversion lemma. -/
theorem exec_inv {i : Instr} {s t : State} (h : exec i s = .next t) : ExecCase s i t := by
  obtain ⟨u, hu, hc⟩ := exec_cases i s
  rw [h] at hu
  cases hu
  exact hc

end Sys2Proof.Machine
end

