-- ==== Sys2Proof/Laws/PerInstr.lean ====
section
/-! SUPPORT. Statements made per instruction. Family `FixedBits`: the encoded word of every instruction has the fixed bits of its
row of spec/opcode_table.json, that is (w and mask) == match (spec/30_encoding.md R82). -/

namespace Sys2Proof.Laws.FixedBits

/-- `mask` and `match` of the row, in the row's own format. -/
def rowOf : Instr → Nat × Nat × Nat
  | .nop => (56, 0xFF000000000000, 0x00000000000000)
  | .clr => (56, 0xFF000000000000, 0x01000000000000)
  | .crci => (56, 0xFF000000000000, 0x10000000000000)
  | .crcb _ => (56, 0xFF000000000000, 0x11000000000000)
  | .crcf => (56, 0xFF000000000000, 0x12000000000000)
  | .crcp => (56, 0xFF000000000000, 0x13000000000000)
  | .wrb _ _ => (56, 0xFF000000000000, 0x20000000000000)
  | .rdb _ => (56, 0xFF000000000000, 0x21000000000000)
  | .wrr _ _ => (56, 0xFF000000000000, 0x22000000000000)
  | .rdr _ => (56, 0xFF000000000000, 0x23000000000000)
  | .enc => (56, 0xFF000000000000, 0x30000000000000)
  | .dec => (56, 0xFF000000000000, 0x31000000000000)
  | .vfy => (56, 0xFF000000000000, 0x32000000000000)
  | .name => (32, 0xFFFFFFFF, 0x4E414D45)
  | .size => (32, 0xFFFFFFFF, 0x53495A45)
  | .hash => (32, 0xFFFFFFFF, 0x48415348)
  | .data => (32, 0xFFFFFFFF, 0x44415441)
  | .stop => (32, 0xFFFFFFFF, 0x53544F50)

/-- The encoded word has its row's width and its row's fixed bits. -/
def Statement (i : Instr) : Prop :=
  match encode i with
  | .request w => (rowOf i).1 = 56 ∧ w &&& BitVec.ofNat 56 (rowOf i).2.1 = BitVec.ofNat 56 (rowOf i).2.2
  | .command v => (rowOf i).1 = 32 ∧ v &&& BitVec.ofNat 32 (rowOf i).2.1 = BitVec.ofNat 32 (rowOf i).2.2

/-- Masking the operation code keeps it and clears the rest. -/
theorem mkRequest_and_opMask (op : BitVec 8) (a : Addr) (d : Word) :
    mkRequest op a d &&& 0xFF000000000000#56 = mkRequest op 0 0 := by
  have h : (0xFF000000000000#56) = mkRequest 0xFF#8 0 0 := rfl
  rw [h]
  refine BitVec.eq_of_getLsbD_eq fun i hi => ?_
  simp only [mkRequest, BitVec.getLsbD_and, BitVec.getLsbD_append]
  by_cases h1 : i < 32
  · simp [h1]
  · by_cases h2 : i - 32 < 16
    · simp [h1, h2]
    · simp only [h1, h2, if_false]
      have h3 : ∀ k, k < 8 → (0xFF#8).getLsbD k = true := by decide
      rw [h3 _ (by omega), Bool.and_true]

theorem nop : Statement .nop := ⟨rfl, rfl⟩
theorem clr : Statement .clr := ⟨rfl, rfl⟩
theorem crci : Statement .crci := ⟨rfl, rfl⟩
theorem crcb (b : Byte) : Statement (.crcb b) := ⟨rfl, (mkRequest_and_opMask _ _ _).trans
  (show mkRequest 0x11#8 0 0 = 0x11000000000000#56 by decide)⟩
theorem crcf : Statement .crcf := ⟨rfl, rfl⟩
theorem crcp : Statement .crcp := ⟨rfl, rfl⟩
theorem wrb (a : Addr) (b : Byte) : Statement (.wrb a b) := ⟨rfl, (mkRequest_and_opMask _ _ _).trans
  (show mkRequest 0x20#8 0 0 = 0x20000000000000#56 by decide)⟩
theorem rdb (a : Addr) : Statement (.rdb a) := ⟨rfl, (mkRequest_and_opMask _ _ _).trans
  (show mkRequest 0x21#8 0 0 = 0x21000000000000#56 by decide)⟩
theorem wrr (a : Addr) (d : Word) : Statement (.wrr a d) := ⟨rfl, (mkRequest_and_opMask _ _ _).trans
  (show mkRequest 0x22#8 0 0 = 0x22000000000000#56 by decide)⟩
theorem rdr (a : Addr) : Statement (.rdr a) := ⟨rfl, (mkRequest_and_opMask _ _ _).trans
  (show mkRequest 0x23#8 0 0 = 0x23000000000000#56 by decide)⟩
theorem enc : Statement .enc := ⟨rfl, rfl⟩
theorem dec : Statement .dec := ⟨rfl, rfl⟩
theorem vfy : Statement .vfy := ⟨rfl, rfl⟩
theorem name : Statement .name := ⟨rfl, rfl⟩
theorem size : Statement .size := ⟨rfl, rfl⟩
theorem hash : Statement .hash := ⟨rfl, rfl⟩
theorem data : Statement .data := ⟨rfl, rfl⟩
theorem stop : Statement .stop := ⟨rfl, rfl⟩

end Sys2Proof.Laws.FixedBits
end

