-- ==== Sys2Proof/Tests/Slice0.lean ====
section
/-! SUPPORT. The model's own tests: ill-formed requests refused; words written out from the encodings of spec/30_encoding.md R72 to
R76 and R66; vectors of spec/95_test_vectors.md (each named in its theorem's docstring); and, for every statement that has
hypotheses, a witness that meets them, at the ends of each range. -/

namespace Sys2Proof.Tests

open Sys2Proof Sys2Proof.Machine

-- One theorem after another: each kernel evaluation would otherwise hold a thread, and its stack, of its own.
set_option Elab.async false

/-! ### Small states -/

/-- Consecutive bytes from address `a` up, as a buffer list. -/
def bufOf (a : Nat) (bs : List Byte) : Memory := (List.range' a bs.length).zip bs

/-- After reset, with a frame loaded and `LEN` set. -/
def loaded (bs : List Byte) : State := { State.reset with buf := bufOf 0 bs, len := BitVec.ofNat 32 bs.length }

/-- After reset, with `LEN` set. -/
def withLen (n : Word) : State := { State.reset with len := n }

/-- After reset, with `PLEN` set. -/
def withPlen (n : Word) : State := { State.reset with plen := n }

/-- After reset, with `STATUS` set. -/
def withStatus (n : Word) : State := { State.reset with status := n }

/-- After reset, with one input pending. -/
def withInput (x : Input) : State := { State.reset with inputs := [x] }

/-- The 16-byte frame of V-E1. -/
def stopFrame : List Byte :=
  [0xC2#8, 0xE1#8, 0xF1#8, 0x16#8, 0x00#8, 0x00#8, 0x00#8, 0x06#8] ++ [0x53#8, 0x54#8, 0x4F#8, 0x50#8, 0x00#8, 0x00#8, 0x00#8, 0x00#8]

/-- The 21-byte frame of V-E2. -/
def helloFrame : List Byte :=
  [0x20#8, 0x6F#8, 0xEB#8, 0x11#8, 0x00#8, 0x00#8, 0x00#8, 0x03#8] ++ [0x44#8, 0x41#8, 0x54#8, 0x41#8, 0x00#8, 0x00#8, 0x03#8, 0xE8#8]
    ++ [0x48#8, 0x65#8, 0x6C#8, 0x6C#8, 0x6F#8]

/-- The little-endian frame of V-E1 (V-E15). -/
def stopFrameLittle : List Byte :=
  [0x7C#8, 0x2D#8, 0xC6#8, 0x5E#8, 0x06#8, 0x00#8, 0x00#8, 0x00#8] ++ [0x53#8, 0x54#8, 0x4F#8, 0x50#8, 0x00#8, 0x00#8, 0x00#8, 0x00#8]

/-- A `STOP` frame with sequence number 7531, whose CRC-32 reads the same in both byte orders (worked out with zlib's crc32). -/
def palindromeFrame : List Byte :=
  [0xBD#8, 0x9D#8, 0x9D#8, 0xBD#8, 0x00#8, 0x00#8, 0x1D#8, 0x6B#8] ++ [0x53#8, 0x54#8, 0x4F#8, 0x50#8, 0x00#8, 0x00#8, 0x00#8, 0x00#8]

/-- The state before the `ENC` of V-E2: payload staged, the four field registers written. -/
def helloStaged : State :=
  { State.reset with
    buf := bufOf 16 [0x48#8, 0x65#8, 0x6C#8, 0x6C#8, 0x6F#8], seq := 3, cmd := 0x44415441#32, off := 1000, plen := 5 }

/-- One field of the next state. -/
def after {α : Type} (o : Out) (f : State → α) : Option α :=
  match o with
  | .next t => some (f t)
  | .fault _ => none
  | .refused _ => none

/-- The response word (R73) and `STATUS` after an instruction. -/
def answerOf (i : Instr) (s : State) : Option (List RspWord × Word) := after (exec i s) fun t => (t.responses.map Response.word, t.status)

/-! ### WellFormed refuses -/

theorem test_wf_wrb_range : (Instr.wrb 1024 0).wellFormed = false := by decide
theorem test_wf_rdb_range : (Instr.rdb 0xFFFF).wellFormed = false := by decide
theorem test_wf_wrr_range : (Instr.wrr 8 0).wellFormed = false := by decide
theorem test_wf_wrr_cks : (Instr.wrr 0 5).wellFormed = false := by decide
theorem test_wf_wrr_crc : (Instr.wrr 6 0).wellFormed = false := by decide
theorem test_wf_wrr_status : (Instr.wrr 7 0).wellFormed = false := by decide
theorem test_wf_rdr_range : (Instr.rdr 8).wellFormed = false := by decide
theorem test_wf_accepts : (Instr.wrb 1023 0).wellFormed && (Instr.rdb 1023).wellFormed && (Instr.wrr 5 0).wellFormed
    && (Instr.rdr 7).wellFormed && Instr.enc.wellFormed = true := by decide

/-! ### Decoding, every row: `op` 55:48, `addr` 47:32, `data` 31:0, written out from R74 -/

theorem test_decode_nop : decode (.request 0x00FFFFFFFFFFFF#56) = .ok .nop := by decide
theorem test_decode_clr : decode (.request 0x01000000000000#56) = .ok .clr := by decide
theorem test_decode_crci : decode (.request 0x10000000000000#56) = .ok .crci := by decide
theorem test_decode_crcb : decode (.request 0x111234000001FF#56) = .ok (.crcb 0xFF) := by decide
theorem test_decode_crcf : decode (.request 0x12000000000000#56) = .ok .crcf := by decide
theorem test_decode_crcp : decode (.request 0x13000000000000#56) = .ok .crcp := by decide
theorem test_decode_wrb : decode (.request 0x200010ABCDEF48#56) = .ok (.wrb 16 0x48) := by decide
theorem test_decode_rdb : decode (.request 0x2103FF00000000#56) = .ok (.rdb 1023) := by decide
theorem test_decode_wrr : decode (.request 0x220001DEADBEEF#56) = .ok (.wrr 1 0xDEADBEEF) := by decide
theorem test_decode_rdr : decode (.request 0x23000700000000#56) = .ok (.rdr 7) := by decide
theorem test_decode_enc : decode (.request 0x30000000000000#56) = .ok .enc := by decide
theorem test_decode_dec : decode (.request 0x31000000000000#56) = .ok .dec := by decide
theorem test_decode_vfy : decode (.request 0x32000000000000#56) = .ok .vfy := by decide
/-- The bits of `WRB 16, 0x48`, one by one: op `0010 0000`, addr `0000 0000 0001 0000`, data `0...0 0100 1000`. -/
theorem test_decode_wrb_bits :
    decode (.request 0b00100000000000000001000000000000000000000000000001001000#56) = .ok (.wrb 16 0x48) := by decide
theorem test_decode_name : decode (.command 0x4E414D45#32) = .ok .name := by decide
theorem test_decode_size : decode (.command 0x53495A45#32) = .ok .size := by decide
theorem test_decode_hash : decode (.command 0x48415348#32) = .ok .hash := by decide
theorem test_decode_data : decode (.command 0x44415441#32) = .ok .data := by decide
theorem test_decode_stop : decode (.command 0x53544F50#32) = .ok .stop := by decide
/-- V-A4, R76: reserved codes are named. -/
theorem test_decode_reserved : [0x02#8, 0x0F#8, 0x14#8, 0x1F#8, 0x24#8, 0x2F#8, 0x33#8, 0x7F#8, 0xFF#8].map
    (fun c => decode (.request (c ++ 0#16 ++ 0#32))) = [0x02#8, 0x0F#8, 0x14#8, 0x1F#8, 0x24#8, 0x2F#8, 0x33#8, 0x7F#8, 0xFF#8].map
      fun c => .error (.reservedOp c) := by decide
/-- V-D4: no tag in another case, cut short, or byte-swapped. -/
theorem test_decode_no_tag : [0x64617461#32, 0x44415400#32, 0x4E414D00#32, 0x00000000#32, 0x41544144#32, 0x53544F51#32].map
    (fun v => (classify Config.hw v, decode (.command v))) =
      [0x64617461#32, 0x44415400#32, 0x4E414D00#32, 0x00000000#32, 0x41544144#32, 0x53544F51#32].map
        fun v => (.unknown, .error (.unknownTag v)) := by decide

/-- The opcode table's numbering: 56-bit rows are requests, 32-bit rows command words. -/
theorem test_table_words : [decodeTableWord 56 0x13000000000000, decodeTableWord 32 0x44415441, decodeTableWord 56 0x33000000000000] =
    [some .crcp, some .data, none] := by decide

/-- The first step after reset runs the placed word. -/
theorem test_fetch_word : (after (step (State.reset.withFetchWord 56 0x220001DEADBEEF)) fun t => (t.seq, t.inputs)) =
    some (0xDEADBEEF, []) := by decide

/-- R79: the lines of program P2. -/
theorem test_text : [Instr.wrb 20 0x6E, .wrr 4 1009, .enc, .stop].map instrText = ["WRB 20, 110", "WRR 4, 1009", "ENC", "STOP"] := by
  decide

/-- R80, P1 line 2 and P2 line 7: the word of a tag; no word for three characters, nor for one outside ASCII. -/
theorem test_setcmd : ["STOP", "DATA", "DAT", "DAT\u00C9"].map setcmd =
    [some [.wrr 2 0x53544F50], some [.wrr 2 0x44415441], none, none] := by decide +kernel

/-- R80, P2 lines 6 to 10. -/
theorem test_encodeOp : encodeOp 3 "DATA" 1000 5 = some [.wrr 1 3, .wrr 2 0x44415441, .wrr 3 1000, .wrr 4 5, .enc] := by
  decide +kernel

/-- R80, P2 lines 1 to 5: the text at address 16; and an address beyond 16 bits does not wrap to 0. -/
theorem test_ldstr : ldstr 16 "Hello" = some [.wrb 16 0x48, .wrb 17 0x65, .wrb 18 0x6C, .wrb 19 0x6C, .wrb 20 0x6F] ∧
    ldbytes 0xFFFF [0x11#8] = some [.wrb 0xFFFF 0x11] ∧ ldbytes 0xFFFF [0x11#8, 0x22#8] = none ∧ ldbytes 0xFFFF [] = some [] := by
  decide +kernel

/-! ### Vectors -/

/-- V-C1. -/
theorem test_crc_digits : ((asciiBytes "123456789").map fun b => (crcRaw Config.hw b, crc32 Config.hw b)) =
    some (0x340BC6D9, 0xCBF43926) := by decide +kernel
/-- V-C1. -/
theorem test_crc_short : [[], [0x61#8], [0x00#8], [0xFF#8], [0#8, 0#8, 0#8, 0#8]].map (crc32 Config.hw) =
    [0x00000000#32, 0xE8B7BE43#32, 0xD202EF8D#32, 0xFF000000#32, 0x2144DF1C#32] := by decide +kernel
/-- V-C3. -/
theorem test_crc_bits : (List.range 9).map (fun n => crcBits Config.hw n 0xFFFFFFCE#32) =
    [0xFFFFFFCE#32, 0x7FFFFFE7#32, 0xD2477CD3#32, 0x849B3D49#32, 0xAFF51D84#32, 0x57FA8EC2#32, 0x2BFD4761#32, 0xF8462090#32, 0x7C231048#32] := by
  decide +kernel
/-- V-O1. -/
theorem test_crcf_reset : answerOf .crcf State.reset = some ([0x000000000#36], 0) := by decide +kernel
/-- V-O2: `CRCB` without `CRCI`. -/
theorem test_crcb_reset : (after (exec (.crcb 0) State.reset) State.crc) = some 0x2DFD1072#32 := by decide +kernel
/-- P4, line 1. -/
theorem test_crci : (after (exec .crci { State.reset with crc := 5 }) State.crc) = some 0xFFFFFFFF#32 := by decide +kernel
/-- V-O5. -/
theorem test_crcp_stop : answerOf .crcp { loaded stopFrame with status := 0x00000013 } = some ([0x0C2E1F116#36], 0) := by
  decide +kernel
/-- V-O5 with `LEN` = 15; `CLASS` and `HERR` are kept. -/
theorem test_crcp_short : answerOf .crcp { loaded stopFrame with len := 15, status := 0x00008512 } =
    some ([0x100000000#36], 0x00008501) := by decide +kernel
/-- V-E2: response, `STATUS`. -/
theorem test_enc_hello : answerOf .enc helloStaged = some ([0x0206FEB11#36], 0x00000400) := by decide +kernel
/-- V-E2: the frame, `LEN` and `CRC`. -/
theorem test_enc_hello_frame : (after (exec .enc helloStaged) fun t => (t.memRead 0 21, t.len, t.crc)) =
    some (helloFrame, 21, 0xDF9014EE#32) := by decide +kernel
/-- V-E13: `OVERSIZED` keeps `LEN`. -/
theorem test_enc_oversized : answerOf .enc { helloStaged with plen := 1009, status := 0x00000400 } =
    some ([0x200000000#36], 0x00000002) := by decide +kernel
/-- V-E15: V-E1 on a block built little-endian. -/
theorem test_enc_little : (after (execEncWith Config.hwLittle { State.reset with seq := 6, cmd := 0x53544F50 }) fun t => t.memRead 0 16) =
    some stopFrameLittle := by decide +kernel
/-- V-D1. -/
theorem test_dec_hello : answerOf .dec (loaded helloFrame) = some ([0x000000004#36], 0x00000400) := by decide +kernel
/-- V-D1: the registers. -/
theorem test_dec_hello_fields : (after (exec .dec (loaded helloFrame)) fun t => [t.cks, t.seq, t.cmd, t.off, t.plen, t.len, t.crc]) =
    some [0x206FEB11#32, 3, 0x44415441#32, 1000, 5, 21, 0xFFFFFFFF#32] := by decide +kernel
/-- V-X1: the same frame on a block built little-endian. -/
theorem test_dec_other_order : (after (execDecWith Config.hwLittle (loaded helloFrame)) fun t => [t.cks, t.seq, t.cmd, t.off, t.plen]) =
    some [0x11EB6F20#32, 0x03000000#32, 0x44415441#32, 0xE8030000#32, 5] := by decide +kernel
/-- V-V1. -/
theorem test_vfy_hello : answerOf .vfy (loaded helloFrame) = some ([0x000000001#36], 0x00000010) := by decide +kernel
/-- V-V2: a mismatch, with `CRC` written. -/
theorem test_vfy_corrupt : (after (exec .vfy ((loaded helloFrame).bufWrite 20 0x6E)) fun t => (t.responses.map Response.word, t.status, t.crc)) =
    some ([0x300000000#36], 0x00000003, 0xA8972478) := by decide +kernel
/-- The other reading of log 7: on the same mismatch `CRC` keeps its reset value (R155). -/
theorem test_vfy_corrupt_keeps :
    (after (execVfyWith Config.hwKeepsCrc ((loaded helloFrame).bufWrite 20 0x6E)) fun t => (t.responses.map Response.word, t.status, t.crc)) =
      some ([0x300000000#36], 0x00000003, 0xFFFFFFFF) := by decide +kernel
/-- V-A2: the last byte. -/
theorem test_wrb_last : (after (exec (.wrb 1023 0x11) State.reset) fun t => (t.buf, t.status)) = some ([(1023, 0x11)], 0) := by
  decide +kernel
/-- V-A2: beyond the last byte. -/
theorem test_wrb_beyond : answerOf (.wrb 1024 0x11) (withStatus 0x00000002) = some ([0x500000000#36], 0x00008002) := by
  decide +kernel
/-- V-A1. -/
theorem test_rdb : answerOf (.rdb 16) ((State.reset).bufWrite 16 0x48) = some ([0x000000048#36], 0) := by decide +kernel
/-- V-A2. -/
theorem test_rdb_beyond : answerOf (.rdb 0xFFFF) State.reset = some ([0x500000000#36], 0x00008000) := by decide +kernel
/-- V-A3, V-A6. -/
theorem test_wrr_refused : [0, 6, 7, 8].map (fun a => answerOf (.wrr a 5) State.reset) =
    [some ([0x600000000#36], 0x00008000), some ([0x600000000#36], 0x00008000), some ([0x600000000#36], 0x00008000),
      some ([0x500000000#36], 0x00008000)] := by decide +kernel
/-- V-A3. -/
theorem test_wrr_seq : (after (exec (.wrr 1 0xDEADBEEF) State.reset) State.seq) = some 0xDEADBEEF := by decide +kernel
/-- V-A3. -/
theorem test_rdr : [6, 7, 8].map (fun a => (answerOf (.rdr a) (withStatus 0x00000510)).map Prod.fst) =
    [some [0x0FFFFFFFF#36], some [0x000000510#36], some [0x500000000#36]] := by decide +kernel
/-- V-A4. -/
theorem test_nop : answerOf .nop (withStatus 0x00000510) = some ([0#36], 0x00000510) := by decide +kernel
/-- V-A4: a reserved code. -/
theorem test_reserved : (after (step (withInput (.word (.request 0x7F000000000000#56)))) fun t => (t.responses.map Response.word, t.status)) =
    some ([0x400000000#36], 0x00008000) := by decide +kernel
/-- V-A5. -/
theorem test_clr : (after (exec .clr { loaded stopFrame with seq := 6, crc := 7, status := 0x00008403 }) fun t => ([t.seq, t.len, t.crc, t.status], t.buf)) =
    some ([0, 0, 0xFFFFFFFF#32, 0], bufOf 0 stopFrame) := by decide +kernel
/-- R67: the classes of the five tags. -/
theorem test_tags : [Instr.name, .size, .hash, .data, .stop].map (fun i => after (exec i State.reset) fun t => t.classes.map CmdClass.number) =
    [some [1#3], some [2#3], some [3#3], some [4#3], some [5#3]] := by decide +kernel
/-- P1, lines 5 to 7: `ENC`, `VFY`, `RDR STATUS` leave `00000510`. -/
theorem test_enc_then_vfy : (after (runProgram [.enc, .vfy, .rdr 7] { State.reset with seq := 6, cmd := 0x53544F50 }) fun t => t.responses.map Response.word) =
    some [0x0C2E1F116#36, 0x000000001#36, 0x000000510#36] := by decide +kernel

/-! ### Witnesses: the hypotheses of each statement are met -/

theorem stop_legal : LengthLegal (loaded stopFrame) := by unfold LengthLegal; decide
theorem hello_legal : LengthLegal (loaded helloFrame) := by unfold LengthLegal; decide
theorem hello_verifies : FrameVerifies Config.hw (loaded helloFrame) := by unfold FrameVerifies; decide +kernel
theorem palindrome_verifies : FrameVerifies Config.hw (loaded palindromeFrame) := by unfold FrameVerifies; decide +kernel

/-- A verifying frame answers 1. -/
theorem vfy_answers {s : State} (h : LengthLegal s) (hv : FrameVerifies Config.hw s) :
    ∃ v, exec .vfy s = .next v ∧ Answered s v .none 1 :=
  ⟨_, exec_vfy_match h hv, by simp [Answered]⟩

theorem vfyWith_answers {s : State} (h : LengthLegal s) (hv : FrameVerifies Config.hw s) :
    ∃ v, execVfyWith Config.hw s = .next v ∧ Answered s v .none 1 :=
  vfy_answers h hv

/-- `EncodeKeepsUsedBits`: a word with ignored bits set, for every branch, and a command word. -/
theorem witness_EncodeKeepsUsedBits :
    decode (.request 0x111234ABCDEF01#56) = .ok (.crcb 1) ∧ decode (.request 0x20FFFFABCDEF01#56) = .ok (.wrb 0xFFFF 1) ∧
    decode (.request 0x21000100000001#56) = .ok (.rdb 1) ∧ decode (.request 0x22FFFFFFFFFFFF#56) = .ok (.wrr 0xFFFF 0xFFFFFFFF) ∧
    decode (.request 0x23000700000001#56) = .ok (.rdr 7) ∧ decode (.request 0x30FFFFFFFFFFFF#56) = .ok .enc ∧
    decode (.command 0x53495A45#32) = .ok .size := by decide

/-- `ReservedCodesAreIllegal`, third clause, at the ends of the four ranges. -/
theorem witness_ReservedCodesAreIllegal : ∀ c ∈ [0x02#8, 0x0F#8, 0x14#8, 0x1F#8, 0x24#8, 0x2F#8, 0x33#8, 0xFF#8],
    (withInput (.word (.request (c ++ 0#16 ++ 0#32)))).inputs = .word (.request (c ++ 0#16 ++ 0#32)) :: [] ∧
      decode (.request (c ++ 0#16 ++ 0#32)) = .error (.reservedOp c) := by decide

/-- `StepRunsTheDecodedInstruction`: one state for each clause. -/
theorem witness_StepRunsTheDecodedInstruction :
    ((withInput (.word (.request 0x30000000000000#56))).inputs = .word (.request 0x30000000000000#56) :: [] ∧
      decode (.request 0x30000000000000#56) = .ok .enc) ∧
    ((withInput (.word (.command 0x64617461#32))).inputs = .word (.command 0x64617461#32) :: [] ∧
      decode (.command 0x64617461#32) = .error (.unknownTag 0x64617461#32)) ∧
    State.reset.inputs = [] ∧ decodeTableWord 56 0x30000000000000 = some .enc := by decide

/-- `OneResponsePerRequest`: a legal and an illegal request. -/
theorem witness_OneResponsePerRequest : (withInput (.word (.request 0x00000000000000#56))).inputs = .word (.request 0#56) :: [] ∧
    (withInput (.word (.request 0xFF000000000000#56))).inputs = .word (.request 0xFF000000000000#56) :: [] := by decide

/-- `ResetEventRule`. -/
theorem witness_ResetEventRule : (withInput .reset).inputs = .reset :: [] := by decide

/-- `CrcByteLinearBijective`: this hardware's polynomial, and two sequences of one length. -/
theorem witness_CrcByteLinearBijective : Config.hw.crcPolyR.getLsbD 31 = true ∧ [0x31#8].length = [0x01#8].length := by decide

/-- `BurstsOf32BitsDetected`: two sequences that differ in the whole window of bits 8 to 39, and nowhere else. -/
theorem witness_BurstsOf32BitsDetected :
    Config.hw.crcPolyR.getLsbD 31 = true ∧ [1#8, 0#8, 0#8, 0#8, 0#8, 2#8].length = [1#8, 0xFF#8, 0xFF#8, 0xFF#8, 0xFF#8, 2#8].length ∧
    [1#8, 0#8, 0#8, 0#8, 0#8, 2#8] ≠ [1#8, 0xFF#8, 0xFF#8, 0xFF#8, 0xFF#8, 2#8] ∧
    ∀ j, (j < 8 ∨ 8 + 32 ≤ j) →
      absorbedBit [1#8, 0#8, 0#8, 0#8, 0#8, 2#8] j = absorbedBit [1#8, 0xFF#8, 0xFF#8, 0xFF#8, 0xFF#8, 2#8] j := by
  refine ⟨by decide, by decide, by decide, fun j hj => ?_⟩
  by_cases h : j < 48
  · have hs : ∀ k, k < 48 → (k < 8 ∨ 8 + 32 ≤ k) →
        absorbedBit [1#8, 0#8, 0#8, 0#8, 0#8, 2#8] k = absorbedBit [1#8, 0xFF#8, 0xFF#8, 0xFF#8, 0xFF#8, 2#8] k := by decide
    exact hs j h hj
  · simp only [absorbedBit]
    rw [List.getD_eq_default _ _ (by simp; omega), List.getD_eq_default _ _ (by simp; omega)]

/-- `LittleEndianResidue`: the little-endian V-E1 frame. -/
theorem witness_LittleEndianResidue : FrameVerifies Config.hwLittle (loaded stopFrameLittle) := by
  unfold FrameVerifies; decide +kernel

/-- The length ranges of `CrcpRule`, `DecRule`, `VfyRule` and `VerifiesExactlyItsChecksum`, at their ends. -/
theorem witness_length_ranges : LengthLegal (withLen 16) ∧ LengthLegal (withLen 1024) ∧ (withLen 0).len.toNat < 16 ∧
    (withLen 15).len.toNat < 16 ∧ 1024 < (withLen 1025).len.toNat ∧ 1024 < (withLen 0xFFFFFFFF).len.toNat := by
  unfold LengthLegal; decide

/-- The address ranges of `WrbRule` and `RdbRule`, at their ends. -/
theorem witness_buffer_ranges : (0#16).toNat < 1024 ∧ (1023#16).toNat < 1024 ∧ 1024 ≤ (1024#16).toNat ∧ 1024 ≤ (0xFFFF#16).toNat := by decide

/-- The register numbers of `WrrRule` and `RdrRule`: writable, read only, out of range. -/
theorem witness_register_ranges : [Reg.seq, .cmd, .off, .plen, .len].map (fun r => (regAddr r).toNat) = [1, 2, 3, 4, 5] ∧
    (0#16).toNat = 0 ∧ (6#16).toNat = 6 ∧ (7#16).toNat = 7 ∧ 8 ≤ (8#16).toNat ∧ 8 ≤ (0xFFFF#16).toNat ∧
    ∀ a : Fin 8, ∃ v : Word,
      [State.reset.cks, State.reset.seq, State.reset.cmd, State.reset.off, State.reset.plen, State.reset.len, State.reset.crc,
        State.reset.status][(BitVec.ofNat 16 a.val).toNat]? = some v := by
  refine ⟨by decide, by decide, by decide, by decide, by decide, by decide, fun a => ?_⟩
  fin_cases a <;> exact ⟨_, rfl⟩

/-- The payload ranges of `EncRule`, `EncodedFrameVerifies` and `EncodeDecodeRoundTrip`, at their ends. -/
theorem witness_payload_ranges : 16 + (withPlen 0).plen.toNat ≤ 1024 ∧ 16 + (withPlen 1008).plen.toNat ≤ 1024 ∧
    1024 < 16 + (withPlen 1009).plen.toNat ∧ 1024 < 16 + (withPlen 0xFFFFFFF0).plen.toNat := by decide

/-- `VfyRule`: a legal frame that verifies and one that does not. -/
theorem witness_VfyRule : LengthLegal (loaded helloFrame) ∧ LengthLegal (loaded stopFrame) ∧
    crc32 Config.hw ((loaded stopFrame).memRead 4 12) = 0xC2E1F116#32 ∧
    crc32 Config.hw (((loaded stopFrame).bufWrite 7 5).memRead 4 12) ≠ 0xC2E1F116#32 :=
  ⟨hello_legal, stop_legal, by decide +kernel, by decide +kernel⟩

/-- `OtherReadingKeepsCrcOnMismatch`: both of its cases happen, a mismatch and a match. -/
theorem witness_OtherReadingKeepsCrcOnMismatch :
    (after (execVfyWith Config.hwKeepsCrc ((loaded stopFrame).bufWrite 7 5)) State.responses) = some [⟨.checksumMismatch, 0⟩] ∧
    (after (execVfyWith Config.hwKeepsCrc (loaded stopFrame)) State.responses) = some [⟨.none, 1⟩] := by decide +kernel

/-- `TagsAnswerTheirClass`: the five pairs. -/
theorem witness_TagsAnswerTheirClass : ∀ p ∈ [(Instr.name, 1#3), (Instr.size, 2#3), (Instr.hash, 3#3), (Instr.data, 4#3), (Instr.stop, 5#3)],
    p ∈ [(Instr.name, 1#3), (Instr.size, 2#3), (Instr.hash, 3#3), (Instr.data, 4#3), (Instr.stop, 5#3)] := fun _ h => h

/-- `EncodeDecodeRoundTrip`, second clause: `VFY` answers 1 on the V-E2 frame. -/
theorem witness_EncodeDecodeRoundTrip : ∃ v, exec .vfy (loaded helloFrame) = .next v ∧ Answered (loaded helloFrame) v .none 1 :=
  vfy_answers hello_legal hello_verifies

/-- `VerifiesExactlyItsChecksum`, fourth clause: the V-E2 frame against itself with one checksum bit changed, and with the whole
window of covered bits 128 to 135 (the last payload byte) changed. -/
theorem witness_VerifiesExactlyItsChecksum_near :
    (((loaded helloFrame).bufWrite 0 0x21).len = (loaded helloFrame).len ∧
      ((loaded helloFrame).bufWrite 0 0x21).memRead 0 21 ≠ (loaded helloFrame).memRead 0 21 ∧
      ((loaded helloFrame).bufWrite 0 0x21).memRead 4 17 = (loaded helloFrame).memRead 4 17) ∧
    (((loaded helloFrame).bufWrite 20 0x90).memRead 0 21 ≠ (loaded helloFrame).memRead 0 21 ∧
      ((loaded helloFrame).bufWrite 20 0x90).memRead 0 4 = (loaded helloFrame).memRead 0 4 ∧
      ((loaded helloFrame).bufWrite 20 0x90).memRead 4 17 = (helloFrame.drop 4).take 16 ++ [0x90#8] ∧
      (loaded helloFrame).memRead 4 17 = (helloFrame.drop 4).take 16 ++ [0x6F#8] ∧
      ∀ j, (j < 128 ∨ 128 + 32 ≤ j) →
        absorbedBit ((helloFrame.drop 4).take 16 ++ [0x90#8]) j = absorbedBit ((helloFrame.drop 4).take 16 ++ [0x6F#8]) j) := by
  refine ⟨⟨rfl, by decide +kernel, by decide +kernel⟩, by decide +kernel, by decide +kernel, by decide +kernel, by decide +kernel,
    fun j hj => ?_⟩
  simp only [absorbedBit]
  rcases hj with h | h
  · rw [List.getD_append _ _ _ _ (show j / 8 < 16 by omega), List.getD_append _ _ _ _ (show j / 8 < 16 by omega)]
  · rw [List.getD_eq_default _ _ (show 17 ≤ j / 8 by omega), List.getD_eq_default _ _ (show 17 ≤ j / 8 by omega)]

/-- `VerifiesExactlyItsChecksum`, third clause: the V-E2 frame, and the same with another byte beyond it. -/
theorem witness_VerifiesExactlyItsChecksum :
    LengthLegal (loaded helloFrame) ∧ ((loaded helloFrame).bufWrite 21 7).len = (loaded helloFrame).len ∧
    ((loaded helloFrame).bufWrite 21 7).memRead 4 17 = (loaded helloFrame).memRead 4 17 ∧
    (∃ v, exec .vfy (loaded helloFrame) = .next v ∧ Answered (loaded helloFrame) v .none 1) ∧
    ∃ v, exec .vfy ((loaded helloFrame).bufWrite 21 7) = .next v ∧ Answered ((loaded helloFrame).bufWrite 21 7) v .none 1 :=
  ⟨hello_legal, rfl, by decide +kernel, vfy_answers hello_legal hello_verifies,
    vfy_answers hello_legal (by unfold FrameVerifies; decide +kernel)⟩

/-- `ByteCorruptionCaught`: a byte of the checksum, the last byte of the header, the last byte of the payload. -/
theorem witness_ByteCorruptionCaught :
    (∃ v, exec .vfy (loaded helloFrame) = .next v ∧ Answered (loaded helloFrame) v .none 1) ∧
    ((0#16).toNat < (loaded helloFrame).len.toNat ∧ 0x21#8 ≠ (loaded helloFrame).bufRead (0#16).toNat) ∧
    ((15#16).toNat < (loaded helloFrame).len.toNat ∧ 0xE9#8 ≠ (loaded helloFrame).bufRead (15#16).toNat) ∧
    ((20#16).toNat < (loaded helloFrame).len.toNat ∧ 0x6E#8 ≠ (loaded helloFrame).bufRead (20#16).toNat) :=
  ⟨vfy_answers hello_legal hello_verifies, by decide +kernel, by decide +kernel, by decide +kernel⟩

/-- `BytesBeyondFrameIgnored`: two states that differ at the first byte beyond the frame, and two that differ in the header bytes
`ENC` writes itself. -/
theorem witness_BytesBeyondFrameIgnored :
    (AgreeOn (fun a => a < (loaded helloFrame).len.toNat) (loaded helloFrame) ((loaded helloFrame).bufWrite 21 7) ∧
      ((loaded helloFrame).bufWrite 21 7).bufRead 21 = 7) ∧
    AgreeOn (fun a => 16 ≤ a ∧ a < 16 + helloStaged.plen.toNat) helloStaged (helloStaged.bufWrite 15 7) := by
  have hl : (loaded helloFrame).len.toNat = 21 := by decide
  refine ⟨⟨⟨fun r => by cases r <;> rfl, fun a h => ?_⟩, by decide +kernel⟩, fun r => by cases r <;> rfl, fun a h => ?_⟩
  · rw [bufRead_bufWrite, if_neg (by rw [hl] at h; omega)]
  · rw [bufRead_bufWrite, if_neg (by omega)]

/-- `NoAccessOutsideBuffer`: two states that differ only where no `BUF` byte is. -/
theorem witness_NoAccessOutsideBuffer : AgreeOn (fun a => a < 1024) State.reset (State.reset.bufWrite 1024 7) := by
  refine ⟨fun r => by cases r <;> rfl, fun a h => ?_⟩
  rw [bufRead_bufWrite, if_neg (by omega)]

/-- `RepeatedOperations`, second clause: operands in range. -/
theorem witness_RepeatedOperations : (1023#16).toNat < 1024 ∧ (7#16).toNat < 8 := by decide

/-- `FailuresArePrecise`: each of the six failing codes is answered by some instruction. -/
theorem witness_FailuresArePrecise :
    (after (exec .dec (withLen 15)) State.responses) = some [⟨.tooShort, 0⟩] ∧
    (after (exec .enc (withPlen 1009)) State.responses) = some [⟨.oversized, 0⟩] ∧
    (after (exec .vfy ((loaded stopFrame).bufWrite 7 5)) State.responses) = some [⟨.checksumMismatch, 0⟩] ∧
    (after (exec (.rdr 8) State.reset) State.responses) = some [⟨.badAddress, 0⟩] ∧
    (after (exec (.wrr 6 0) State.reset) State.responses) = some [⟨.readOnly, 0⟩] ∧
    ResultCode.tooShort ≠ .none ∧ ResultCode.tooShort.isMisuse = false ∧ ResultCode.badAddress.isMisuse = true := by decide +kernel

/-- `ContractDecidesMisuse`: a request that keeps the contract and one that breaks it, both answered, from a state that keeps it. -/
theorem witness_ContractDecidesMisuse : ContractKept State.reset ∧
    (Instr.wrr 1 5).wellFormed = true ∧ (∃ t, exec (.wrr 1 5) State.reset = .next t) ∧
    (Instr.wrr 0 5).wellFormed = false ∧ ∃ t, exec (.wrr 0 5) State.reset = .next t := by
  refine ⟨by unfold ContractKept; decide, by decide, ?_, by decide, ?_⟩
  · exact (exec_cases _ _).imp fun _ h => h.1
  · exact (exec_cases _ _).imp fun _ h => h.1

/-- `HerrStaysUntilClr` and the last clause of `NopAndClrRule`: `HERR` set before a `NOP`, before a `CLR`, and set by a bad `RDB`. -/
theorem witness_HerrStaysUntilClr :
    (statusHerr (withStatus 0x00008000).status = true ∧ Instr.nop ≠ .clr) ∧
    (after (exec .clr (withStatus 0x00008000)) fun t => statusHerr t.status) = some false ∧
    (statusHerr State.reset.status = false ∧ (after (exec (.rdb 1024) State.reset) fun t => statusHerr t.status) = some true) := by
  decide +kernel

/-- `StatusFieldWriters`: a `VFY` that answers 1, a failing `DEC`, `CLR`, and an instruction that leaves the fields. -/
theorem witness_StatusFieldWriters :
    (∃ v, exec .vfy (loaded helloFrame) = .next v ∧ Answered (loaded helloFrame) v .none 1) ∧
    (∃ t, exec .dec (withLen 1025) = .next t) ∧ (∃ t, exec .clr State.reset = .next t) ∧
    (∃ t, exec (.wrb 1023 1) State.reset = .next t) :=
  ⟨vfy_answers hello_legal hello_verifies, (exec_cases _ _).imp fun _ h => h.1, (exec_cases _ _).imp fun _ h => h.1,
    (exec_cases _ _).imp fun _ h => h.1⟩

/-- `WriteMatrix`: every instruction answers a next state. -/
theorem witness_WriteMatrix (i : Instr) : ∃ t, exec i State.reset = .next t := (exec_cases i _).imp fun _ h => h.1

/-- `StepKeepsInvariant`: a state with written bytes and `CRC_OK` set that meets the invariant, and its next state. -/
theorem witness_StepKeepsInvariant :
    StateInv { loaded helloFrame with status := 0x00000410, inputs := [.word (.request 0x31000000000000#56)] } ∧
    ∃ t, step { loaded helloFrame with status := 0x00000410, inputs := [.word (.request 0x31000000000000#56)] } = .next t := by
  refine ⟨by unfold StateInv; decide +kernel, ?_⟩
  rw [step_word_ok (i := .dec) rfl (by decide)]
  exact (exec_cases _ _).imp fun _ h => h.1

/-- `ReceiveProgramReadsFrame`: the shortest and the longest frame. -/
theorem witness_ReceiveProgramReadsFrame : 16 ≤ stopFrame.length ∧ stopFrame.length ≤ 1024 ∧
    16 ≤ (List.replicate 1024 (0#8)).length ∧ (List.replicate 1024 (0#8)).length ≤ 1024 := by
  rw [List.length_replicate]
  decide

/-- `SendThenReceive`: no payload and the longest. -/
theorem witness_SendThenReceive : ([] : List Byte).length ≤ 1008 ∧ (List.replicate 1008 (0xA5#8)).length ≤ 1008 := by
  rw [List.length_replicate]
  decide

/-- `OtherByteOrderSwapsFields`: legal states; a verifying frame with a palindrome checksum and one without. -/
theorem witness_OtherByteOrderSwapsFields : LengthLegal (loaded palindromeFrame) ∧
    (∃ v, execVfyWith Config.hw (loaded palindromeFrame) = .next v ∧ Answered (loaded palindromeFrame) v .none 1) ∧
    ((loaded palindromeFrame).bufRead 0 = (loaded palindromeFrame).bufRead 3 ∧
      (loaded palindromeFrame).bufRead 1 = (loaded palindromeFrame).bufRead 2) ∧
    (∃ v, execVfyWith Config.hw (loaded helloFrame) = .next v ∧ Answered (loaded helloFrame) v .none 1) ∧
    (loaded helloFrame).bufRead 0 ≠ (loaded helloFrame).bufRead 3 := by
  have hp : LengthLegal (loaded palindromeFrame) := by unfold LengthLegal; decide
  exact ⟨hp, vfyWith_answers hp palindrome_verifies, by decide +kernel, vfyWith_answers hello_legal hello_verifies, by decide +kernel⟩

end Sys2Proof.Tests
end

/-! ## Proofs of the family `10_state.md`: steps, the invariant, who writes what -/

namespace Sys2Proof.Machine

/-! ### What a step can do -/

/-- `StepCase s t`: one of the ways a step can take `s` to `t`, with the pending input that makes it do so. -/
inductive StepCase (s : State) : State → Prop where
  | idle (h : s.inputs = []) : StepCase s s
  | reset (rest : List Input) (h : s.inputs = .reset :: rest) :
      StepCase s (({ s with inputs := rest } : State).resetEvent Config.hw)
  | ran (c : Code) (rest : List Input) (i : Instr) (t : State) (h : s.inputs = .word c :: rest) (hd : decode c = .ok i)
      (hc : ExecCase { s with inputs := rest } i t) : StepCase s t
  | illegal (c : Code) (rest : List Input) (op : BitVec 8) (h : s.inputs = .word c :: rest)
      (hd : decode c = .error (.reservedOp op)) :
      StepCase s ((({ s with inputs := rest } : State).setHerr true).respond .illegalOp 0)
  | unknown (c : Code) (rest : List Input) (v : Word) (h : s.inputs = .word c :: rest)
      (hd : decode c = .error (.unknownTag v)) :
      StepCase s { s with inputs := rest, classes := s.classes ++ [classify Config.hw v] }

/-- Every step goes on to one of the states listed. -/
theorem step_cases (s : State) : ∃ t, step s = .next t ∧ StepCase s t := by
  rcases hs : s.inputs with _ | ⟨c | _, rest⟩
  · exact ⟨s, step_idle hs, .idle hs⟩
  · rcases hd : decode c with (⟨op⟩ | ⟨v⟩) | i
    · exact ⟨_, step_word_error hs hd, .illegal c rest op hs hd⟩
    · exact ⟨_, step_word_error hs hd, .unknown c rest v hs hd⟩
    · obtain ⟨t, ht, hc⟩ := exec_cases i { s with inputs := rest }
      exact ⟨t, (step_word_ok hs hd).trans ht, .ran c rest i t hs hd hc⟩
  · exact ⟨_, step_reset hs, .reset rest hs⟩

/-- The inversion lemma of `step`. -/
theorem step_inv {s t : State} (h : step s = .next t) : StepCase s t := by
  obtain ⟨u, hu, hc⟩ := step_cases s
  rw [h] at hu
  cases hu
  exact hc

/-- Settles O8: each way a step can go ends in a next state. -/
theorem everyStepAnswers : Obligations.EveryStepAnswers := fun s => (step_cases s).imp fun _ ht => ht.1

/-! ### What an instruction can do to STATUS -/

/-- The codec operations, which write `ERR` and `CRC_OK` (10_state.md R22, R23). -/
def IsCodecOp (i : Instr) : Prop := i = .enc ∨ i = .dec ∨ i = .vfy ∨ i = .crcp

/-- `StatusCase s t i`: one of the ways instruction `i`, which took `s` to `t`, can have written `STATUS`
(10_state.md R22 to R25). -/
inductive StatusCase (s t : State) (i : Instr) : Prop where
  | kept (hi : ¬IsCodecOp i) (hne : i ≠ .clr) (hw : t.status = s.status)
  | misused (hi : ¬IsCodecOp i) (hne : i ≠ .clr) (hw : t.status = putField s.status 15 1 (BitVec.ofBool true))
  | cleared (hi : i = .clr) (hw : t.status = 0)
  | judged (c : ResultCode) (d : Word) (ok : Bool) (hi : i = .vfy ∨ i = .crcp)
      (hr : t.responses = s.responses ++ [⟨c, d⟩]) (hc : c.number.toNat ≤ 3) (hok : ok = true ↔ i = .vfy ∧ c = .none)
      (hw : t.status = putField (putField s.status 0 4 c.number) 4 1 (BitVec.ofBool ok))
  | classified (c : ResultCode) (d : Word) (k : CmdClass) (hi : i = .enc ∨ i = .dec)
      (hr : t.responses = s.responses ++ [⟨c, d⟩]) (hc : c.number.toNat ≤ 3)
      (hk : k = if c = .none then classify Config.hw t.cmd else .unknown)
      (hw : t.status = putField (putField (putField s.status 0 4 c.number) 4 1 (BitVec.ofBool false)) 8 3 k.number)

/-- Every instruction writes `STATUS` in one of the ways listed. -/
theorem ExecCase.statusCase {s t : State} {i : Instr} (h : ExecCase s i t) : StatusCase s t i := by
  cases h with
  | nop | crci | crcb | crcf | wrb | rdb | wrrSeq | wrrCmd | wrrOff | wrrPlen | wrrLen | rdr | name | size | hash | data
  | stop => exact .kept (by simp [IsCodecOp]) (by simp) rfl
  | wrbBad | rdbBad | wrrReadOnly | wrrBad | rdrBad => exact .misused (by simp [IsCodecOp]) (by simp) rfl
  | clr => exact .cleared rfl rfl
  | crcpLegal => exact .judged .none _ false (.inr rfl) rfl (by decide) (by simp) rfl
  | crcpShort => exact .judged .tooShort 0 false (.inr rfl) rfl (by decide) (by simp) rfl
  | crcpOver => exact .judged .oversized 0 false (.inr rfl) rfl (by decide) (by simp) rfl
  | vfyMatch => exact .judged .none 1 true (.inl rfl) rfl (by decide) (by simp) rfl
  | vfyMismatch => exact .judged .checksumMismatch 0 false (.inl rfl) rfl (by decide) (by simp) rfl
  | vfyShort => exact .judged .tooShort 0 false (.inl rfl) rfl (by decide) (by simp) rfl
  | vfyOver => exact .judged .oversized 0 false (.inl rfl) rfl (by decide) (by simp) rfl
  | encFits =>
    exact .classified .none (s.encodeFrame Config.hw).cks (classify Config.hw s.cmd) (.inl rfl) (by simp) (by decide)
      (by simp) (by simp)
  | encOver => exact .classified .oversized 0 .unknown (.inl rfl) rfl (by decide) rfl rfl
  | decLegal => exact .classified .none _ _ (.inr rfl) rfl (by decide) rfl rfl
  | decShort => exact .classified .tooShort 0 .unknown (.inr rfl) rfl (by decide) rfl rfl
  | decOver => exact .classified .oversized 0 .unknown (.inr rfl) rfl (by decide) rfl rfl

/-- What R22, R23 and R24 say of a codec operation: the code, `CRC_OK` and `CLASS` it leaves beside its response. -/
theorem StatusCase.codec {s t : State} {i : Instr} (h : StatusCase s t i) (hi : IsCodecOp i) :
    ∃ c d, t.responses = s.responses ++ [⟨c, d⟩] ∧ statusErr t.status = c.number ∧ c.number.toNat ≤ 3 ∧
      (statusCrcOk t.status = true ↔ i = .vfy ∧ c = .none) ∧
      (i = .enc ∨ i = .dec → statusClass t.status = if c = .none then (classify Config.hw t.cmd).number else 0) ∧
      (i = .vfy ∨ i = .crcp → statusClass t.status = statusClass s.status) := by
  cases h with
  | kept hn | misused hn => exact absurd hi hn
  | cleared hclr => subst hclr; simp [IsCodecOp] at hi
  | judged c d ok hj hr hc hok hw =>
    have hne : ¬(i = .enc ∨ i = .dec) := by rcases hj with rfl | rfl <;> simp
    exact ⟨c, d, hr, by simp [hw], hc, by rw [hw, statusCrcOk_putCrcOk, hok], fun h => absurd h hne, fun _ => by simp [hw]⟩
  | classified c d k hj hr hc hk hw =>
    have hne : i ≠ .vfy ∧ i ≠ .crcp := by rcases hj with rfl | rfl <;> simp
    have hclass : k.number = if c = .none then (classify Config.hw t.cmd).number else 0 := by
      rw [hk]; split <;> rfl
    exact ⟨c, d, hr, by simp [hw], hc, by simp [hw, hne], fun _ => by rw [hw, statusClass_putClass, hclass],
      fun h => absurd h (not_or.2 hne)⟩

/-- R27: an instruction that is no codec operation and not `CLR` keeps `ERR`, `CRC_OK` and `CLASS`. -/
theorem StatusCase.fields_kept {s t : State} {i : Instr} (h : StatusCase s t i) (hi : ¬IsCodecOp i) (hne : i ≠ .clr) :
    statusErr t.status = statusErr s.status ∧ statusCrcOk t.status = statusCrcOk s.status ∧
      statusClass t.status = statusClass s.status := by
  cases h with
  | kept _ _ hw => rw [hw]; exact ⟨rfl, rfl, rfl⟩
  | misused _ _ hw => rw [hw]; exact ⟨statusErr_putHerr _ _, statusCrcOk_putHerr _ _, statusClass_putHerr _ _⟩
  | cleared hclr => exact absurd hclr hne
  | judged _ _ _ hj => exact absurd (.inr (.inr hj)) hi
  | classified _ _ _ hj => exact absurd (hj.elim .inl (.inr ∘ .inl)) hi

/-- Settles O38: the ways an instruction can write `STATUS`, one by one. -/
theorem statusFieldWriters : Obligations.StatusFieldWriters := by
  unfold Obligations.StatusFieldWriters
  intro i s t h
  have hs := (exec_inv h).statusCase
  refine ⟨hs.codec, ?_, fun h1 h2 h3 h4 => hs.fields_kept (by simp [IsCodecOp, h1, h2, h3, h4])⟩
  rintro rfl
  cases exec_inv h
  exact rfl

/-! ### The invariant -/

/-- What `StateInv` says of the `STATUS` word (10_state.md R21, R22, R23, R26). -/
def StatusInv (w : Word) : Prop :=
  statusReserved w = 0 ∧ (statusErr w).toNat ≤ 3 ∧ (statusClass w).toNat ≤ 5 ∧ (statusCrcOk w = true → statusErr w = 0)

/-- The invariant is a property of the buffer list and of `STATUS`, apart. -/
theorem stateInv_iff {s : State} : StateInv s ↔ Memory.wf s.buf = true ∧ StatusInv s.status := Iff.rfl

theorem statusInv_zero : StatusInv 0#32 := by simp [StatusInv]

theorem statusInv_putHerr {w : Word} (v : BitVec 1) (h : StatusInv w) : StatusInv (putField w 15 1 v) := by
  simpa [StatusInv] using h

/-- A verdict keeps the invariant if its code is at most 3 and `CRC_OK` goes with the code `NONE` only (R22, R23). -/
theorem statusInv_putVerdict {w : Word} {c : ResultCode} {ok : Bool} (h : StatusInv w) (hc : c.number.toNat ≤ 3)
    (hok : ok = true → c = .none) : StatusInv (putField (putField w 0 4 c.number) 4 1 (BitVec.ofBool ok)) := by
  obtain ⟨hres, -, hclass, -⟩ := h
  refine ⟨by simpa using hres, by simpa using hc, by simpa using hclass, fun h => ?_⟩
  rw [statusCrcOk_putCrcOk] at h
  simp [hok h, ResultCode.number]

theorem cmdClass_number_le (k : CmdClass) : k.number.toNat ≤ 5 := by cases k <;> decide

theorem statusInv_putClass {w : Word} (k : CmdClass) (h : StatusInv w) : StatusInv (putField w 8 3 k.number) := by
  obtain ⟨hres, herr, -, hok⟩ := h
  exact ⟨by simpa using hres, by simpa using herr, by simpa using cmdClass_number_le k, by simpa using hok⟩

theorem StatusCase.keeps_statusInv {s t : State} {i : Instr} (h : StatusCase s t i) (hs : StatusInv s.status) :
    StatusInv t.status := by
  cases h with
  | kept _ _ hw => exact hw ▸ hs
  | misused _ _ hw => exact hw ▸ statusInv_putHerr _ hs
  | cleared _ hw => exact hw ▸ statusInv_zero
  | judged c d ok _ _ hc hok hw => exact hw ▸ statusInv_putVerdict hs hc fun h => (hok.1 h).2
  | classified c d k _ _ hc _ hw =>
    exact hw ▸ statusInv_putClass k (statusInv_putVerdict hs hc fun h => absurd h (by simp))

/-- The header writes of `ENC` stay inside `BUF` (41_codec.md R113). -/
theorem wf_buildHeader {s : State} (h : Memory.wf s.buf = true) : Memory.wf (s.buildHeader Config.hw).buf = true :=
  wf_setAll (by simp) (wf_setAll (by simp) (wf_setAll (by simp) h))

theorem wf_encodeFrame {s : State} (h : Memory.wf s.buf = true) : Memory.wf (s.encodeFrame Config.hw).buf = true := by
  rw [State.encodeFrame, storeChecksum_buf, absorbFrame_buf, setEncLength_buf]
  exact wf_setAll (by simp) (wf_buildHeader h)

/-- Only `WRB` and `ENC` write the buffer list; every instruction keeps its canonical form. -/
theorem ExecCase.keeps_wf {s t : State} {i : Instr} (h : ExecCase s i t) (hs : Memory.wf s.buf = true) :
    Memory.wf t.buf = true := by
  cases h
  case wrb a b ha => exact wf_set ha hs
  case encFits => simpa using wf_encodeFrame hs
  all_goals simpa using hs

theorem ExecCase.keeps_stateInv {s t : State} {i : Instr} (h : ExecCase s i t) (hs : StateInv s) : StateInv t := by
  obtain ⟨hbuf, hstatus⟩ := stateInv_iff.1 hs
  exact stateInv_iff.2 ⟨h.keeps_wf hbuf, h.statusCase.keeps_statusInv hstatus⟩

/-- Settles O40: every way a step can go keeps both halves of the invariant. -/
theorem stepKeepsInvariant : Obligations.StepKeepsInvariant := by
  unfold Obligations.StepKeepsInvariant
  intro s t hs h
  cases step_inv h with
  | idle => exact hs
  | reset => exact stateInv_iff.2 ⟨wf_nil, statusInv_zero⟩
  | ran c rest i t _ _ hc => exact hc.keeps_stateInv hs
  | illegal =>
    obtain ⟨hbuf, hstatus⟩ := stateInv_iff.1 hs
    exact stateInv_iff.2 ⟨hbuf, statusInv_putHerr _ hstatus⟩
  | unknown => exact hs

/-- Settles O41: both halves of the invariant by their own lemmas, the register values by evaluation. -/
theorem resetMeetsInvariant : Obligations.ResetMeetsInvariant :=
  ⟨⟨wf_reset, statusInv_zero⟩, rfl, rfl, rfl, rfl, rfl, rfl, rfl, rfl, fun _ => rfl⟩

/-! ### Who writes which register and which byte -/

theorem bufSameOutside_bufWrite (s : State) (a : Nat) (b : Byte) : BufSameOutside a 1 s (s.bufWrite a b) := by
  intro k hk
  rw [bufRead_bufWrite, if_neg (by omega)]

theorem bufSameOutside_encodeFrame (s : State) : BufSameOutside 0 16 s (s.encodeFrame Config.hw) :=
  fun _ hk => bufRead_encodeFrame_outside (by omega)

theorem ExecCase.channel_kept {s t : State} {i : Instr} (h : ExecCase s i t) : t.inputs = s.inputs ∧ t.epoch = s.epoch := by
  cases h <;> simp

/-- Every instruction but `WRB` and `ENC` keeps the buffer list. -/
theorem ExecCase.buf_kept {s t : State} {i : Instr} (h : ExecCase s i t) (hwrb : ∀ a b, i ≠ .wrb a b) (henc : i ≠ .enc) :
    t.buf = s.buf := by
  cases h
  case wrb a b _ => exact absurd rfl (hwrb a b)
  case encFits => exact absurd rfl henc
  all_goals simp

theorem ExecCase.bufSame {s t : State} {i : Instr} (h : ExecCase s i t) (hwrb : ∀ a b, i ≠ .wrb a b) (henc : i ≠ .enc) :
    BufSame s t := by
  obtain ⟨-, hepoch⟩ := h.channel_kept
  exact bufSame_of_eq (h.buf_kept hwrb henc) hepoch

theorem ExecCase.wrb_bufSameOutside {s t : State} {a : Addr} {b : Byte} (h : ExecCase s (.wrb a b) t) :
    BufSameOutside a.toNat 1 s t := by
  cases h with
  | wrb => exact bufSameOutside_bufWrite s a.toNat b
  | wrbBad => exact fun _ _ => by simp

theorem ExecCase.enc_bufSameOutside {s t : State} (h : ExecCase s .enc t) : BufSameOutside 0 16 s t := by
  cases h with
  | encFits => exact fun a ha => by simpa using bufSameOutside_encodeFrame s a ha
  | encOver => exact fun _ _ => by simp

/-- The registers instruction `i` may write (10_state.md R27; log 7 for `CRC` under `VFY`). -/
def writtenRegs : Instr → List Reg
  | .clr => [.cks, .seq, .cmd, .off, .plen, .len, .crc, .status]
  | .crci | .crcb _ => [.crc]
  | .crcp | .vfy => [.crc, .status]
  | .wrb _ _ | .rdb _ | .rdr _ => [.status]
  | .wrr a _ => if a.toNat = 1 then [.seq] else if a.toNat = 2 then [.cmd] else if a.toNat = 3 then [.off]
      else if a.toNat = 4 then [.plen] else if a.toNat = 5 then [.len] else [.status]
  | .enc => [.cks, .len, .crc, .status]
  | .dec => [.cks, .seq, .cmd, .off, .plen, .status]
  | .nop | .crcf | .name | .size | .hash | .data | .stop => []

theorem writtenRegs_wrr_status {a : Addr} (d : Word) (h : a.toNat = 0 ∨ 6 ≤ a.toNat) :
    writtenRegs (.wrr a d) = [.status] := by
  simp only [writtenRegs]
  rw [if_neg (by omega), if_neg (by omega), if_neg (by omega), if_neg (by omega), if_neg (by omega)]

/-- A misused request writes `STATUS` alone. -/
theorem regsSame_misuse (c : ResultCode) (s : State) : RegsSameExcept [.status] s ((s.setHerr true).respond c 0) :=
  regsSameExcept_iff.2 (by simp)

/-- Every instruction keeps the registers outside its list. -/
theorem ExecCase.regs_kept {s t : State} {i : Instr} (h : ExecCase s i t) : RegsSameExcept (writtenRegs i) s t := by
  cases h
  case wrrReadOnly a d ha => rw [writtenRegs_wrr_status d (by omega)]; exact regsSame_misuse .readOnly s
  case wrrBad a d ha => rw [writtenRegs_wrr_status d (by omega)]; exact regsSame_misuse .badAddress s
  all_goals exact regsSameExcept_iff.2 (by simp [writtenRegs, *])

/-- Settles O39: the registers, the bytes and the host channel, each by its own frame lemma. -/
theorem writeMatrix : Obligations.WriteMatrix := by
  unfold Obligations.WriteMatrix
  intro i s t h
  have hc := exec_inv h
  refine ⟨hc.regs_kept, ?_, hc.channel_kept⟩
  cases i with
  | wrb a b => exact hc.wrb_bufSameOutside
  | enc => exact hc.enc_bufSameOutside
  | _ => exact hc.bufSame (by simp) (by simp)

end Sys2Proof.Machine

/-! ## Proofs of the family `20_memory.md`: the decoded instruction, the bytes an operation reads, repetition, byte order -/

namespace Sys2Proof.Machine

/-! ### The step runs the decoded instruction -/

/-- The decoder and the classifier compare with the same five words (30_encoding.md R67, R82): a command word that the decoder
rejects has class 0. -/
theorem classify_of_decode_error {v : Word} {r : Reject} (h : decode (.command v) = .error r) :
    classify Config.hw v = .unknown := by
  change decodeCommand v = _ at h
  unfold decodeCommand at h
  split_ifs at h with hname hsize hhash hdata hstop
  simp [classify, hname, hsize, hhash, hdata, hstop]

theorem decode_of_decodeTableWord {nbits w : Nat} {i : Instr} (h : decodeTableWord nbits w = some i) :
    decode (codeOfTableWord nbits w) = .ok i := by
  unfold decodeTableWord at h
  split at h
  · cases h; assumption
  · cases h

/-- Settles O7: the four paths of `step`; a rejected command word is one the classifier does not know. -/
theorem stepRunsTheDecodedInstruction : Obligations.StepRunsTheDecodedInstruction := by
  unfold Obligations.StepRunsTheDecodedInstruction
  refine ⟨fun s c rest i => step_word_ok, fun s v rest r hs hd => ?_, fun s => step_idle, fun s nbits w i hi => ?_⟩
  · obtain rfl := decodeCommand_error hd
    rw [step_word_error hs hd]
    simp [rejected, classify_of_decode_error hd]
  · simp [step_withFetchWord, serve, decode_of_decodeTableWord hi]

/-! ### The listed ways are what `exec` does -/

theorem regOfAddr_of_toNat {a : Addr} {n : Nat} (h : a.toNat = n) (hn : n < 8) :
    regOfAddr Config.hw a = regOrder[n]? := by
  rw [regOfAddr_some (by omega), h]

/-- The converse of `exec_inv`: a listed state is the one `exec` goes on to, so `ExecCase` determines it. -/
theorem ExecCase.exec_eq {s t : State} {i : Instr} (h : ExecCase s i t) : exec i s = .next t := by
  cases h with
  | nop | clr | crci | crcb | crcf | name | size | hash | data | stop => rfl
  | crcpLegal h => exact exec_crcp_legal h
  | crcpShort h => exact exec_crcp_short h
  | crcpOver h => exact exec_crcp_over h
  | wrb a b h => exact exec_wrb b s h
  | wrbBad a b h => exact exec_wrb_bad b s h
  | rdb a h => exact exec_rdb s h
  | rdbBad a h => exact exec_rdb_bad s h
  | wrrSeq a d h => exact exec_wrr (r := .seq) d s (regOfAddr_of_toNat h (by decide)) rfl
  | wrrCmd a d h => exact exec_wrr (r := .cmd) d s (regOfAddr_of_toNat h (by decide)) rfl
  | wrrOff a d h => exact exec_wrr (r := .off) d s (regOfAddr_of_toNat h (by decide)) rfl
  | wrrPlen a d h => exact exec_wrr (r := .plen) d s (regOfAddr_of_toNat h (by decide)) rfl
  | wrrLen a d h => exact exec_wrr (r := .len) d s (regOfAddr_of_toNat h (by decide)) rfl
  | wrrReadOnly a d h =>
    rcases h with h | h | h
    · exact exec_wrr_readOnly (r := .cks) d s (regOfAddr_of_toNat h (by decide)) rfl
    · exact exec_wrr_readOnly (r := .crc) d s (regOfAddr_of_toNat h (by decide)) rfl
    · exact exec_wrr_readOnly (r := .status) d s (regOfAddr_of_toNat h (by decide)) rfl
  | wrrBad a d h => exact exec_wrr_bad d s h
  | rdr a r _ hr => exact exec_rdr s hr
  | rdrBad a h => exact exec_rdr_bad s h
  | encFits h => exact exec_enc h
  | encOver h => exact exec_enc_over h
  | decLegal h => exact exec_dec_legal h
  | decShort h => exact exec_dec_short h
  | decOver h => exact exec_dec_over h
  | vfyMatch h hv => exact exec_vfy_match h hv
  | vfyMismatch h hv => exact exec_vfy_mismatch h hv
  | vfyShort h => exact exec_vfy_short h
  | vfyOver h => exact exec_vfy_over h

/-- A response given after an operation that leaves the host channel alone answers the request, and does nothing else. -/
theorem answered_respond {s u : State} (c : ResultCode) (d : Word) (hr : u.responses = s.responses := by simp)
    (hi : u.inputs = s.inputs := by simp) (hc : u.classes = s.classes := by simp) (he : u.epoch = s.epoch := by simp) :
    Answered s (u.respond c d) c d :=
  ⟨by rw [respond_responses, hr], hi, hc, he⟩

/-- A request has one answer. -/
theorem Answered.unique {s t : State} {c c' : ResultCode} {d d' : Word} (h : Answered s t c d) (h' : Answered s t c' d') :
    c = c' ∧ d = d' := by
  have heq := h.1.symm.trans h'.1
  simpa using heq

/-- Every request is answered once, and nothing else happens in the host channel (30_encoding.md R73). -/
theorem ExecCase.answered {s t : State} {i : Instr} (h : ExecCase s i t) (hi : i.isRequest = true) :
    ∃ c d, Answered s t c d := by
  cases h
  case name | size | hash | data | stop => simp [Instr.isRequest] at hi
  all_goals exact ⟨_, _, answered_respond _ _⟩

/-! ### The bytes an operation reads -/

/-- The bytes of `BUF` that instruction `i` reads in state `s` (20_memory.md R47, R55): the frame, the payload that `ENC` leaves
in place, or the byte that `RDB` names; none where the length or address check fails. -/
def ReadsByte (s : State) : Instr → Nat → Prop
  | .dec, a | .vfy, a | .crcp, a => LengthLegal s ∧ a < s.len.toNat
  | .enc, a => 16 + s.plen.toNat ≤ 1024 ∧ 16 ≤ a ∧ a < 16 + s.plen.toNat
  | .rdb b, a => a = b.toNat ∧ a < 1024
  | _, _ => False

theorem ReadsByte.lt_1024 {s : State} {i : Instr} {a : Nat} (h : ReadsByte s i a) : a < 1024 := by
  cases i with
  | dec | vfy | crcp =>
    obtain ⟨⟨-, hmax⟩, ha⟩ := h
    omega
  | enc =>
    obtain ⟨hmax, -, ha⟩ := h
    omega
  | rdb b => exact h.2
  | _ => exact h.elim

theorem AgreeOn.mono {P Q : Nat → Prop} {s s' : State} (h : AgreeOn Q s s') (hPQ : ∀ a, P a → Q a) : AgreeOn P s s' :=
  ⟨h.1, fun a ha => h.2 a (hPQ a ha)⟩

/-- Two states with the same registers differ in the buffer, the reset counter and the host channel alone. -/
theorem eq_of_readReg_eq {s s' : State} (h : ∀ r, s'.readReg r = s.readReg r) :
    s' = { s with buf := s'.buf, epoch := s'.epoch, inputs := s'.inputs, responses := s'.responses, classes := s'.classes } := by
  have hcks : s'.cks = s.cks := h .cks
  have hseq : s'.seq = s.seq := h .seq
  have hcmd : s'.cmd = s.cmd := h .cmd
  have hoff : s'.off = s.off := h .off
  have hplen : s'.plen = s.plen := h .plen
  have hlen : s'.len = s.len := h .len
  have hcrc : s'.crc = s.crc := h .crc
  have hstatus : s'.status = s.status := h .status
  cases s'
  simp_all

/-! ### What the buffer operations make of bytes that agree -/

theorem readField_congr {cfg : Config} {s t : State} {a : Nat} (h : ∀ k, a ≤ k → k < a + 4 → t.bufRead k = s.bufRead k) :
    t.readField cfg a = s.readField cfg a := by
  simp only [State.readField, h a (by omega) (by omega), h (a + 1) (by omega) (by omega), h (a + 2) (by omega) (by omega),
    h (a + 3) (by omega) (by omega)]

theorem readTag_congr {s t : State} {a : Nat} (h : ∀ k, a ≤ k → k < a + 4 → t.bufRead k = s.bufRead k) :
    t.readTag a = s.readTag a := by
  simp only [State.readTag, h a (by omega) (by omega), h (a + 1) (by omega) (by omega), h (a + 2) (by omega) (by omega),
    h (a + 3) (by omega) (by omega)]

/-- A byte reads alike after the same write if the write covers it or it did so before. -/
theorem bufRead_memWrite_congr {s t : State} {a c : Nat} {bs : List Byte}
    (h : (a ≤ c ∧ c < a + bs.length) ∨ t.bufRead c = s.bufRead c) :
    (t.memWrite a bs).bufRead c = (s.memWrite a bs).bufRead c := by
  rw [bufRead_memWrite, bufRead_memWrite]
  split
  · rfl
  · exact h.resolve_left ‹_›

/-- The header `ENC` builds depends on `SEQ`, `CMD` and `OFF` alone (41_codec.md R113). -/
theorem bufRead_buildHeader_congr {s t : State} {c : Nat} (hseq : t.seq = s.seq) (hcmd : t.cmd = s.cmd) (hoff : t.off = s.off)
    (h : (4 ≤ c ∧ c < 16) ∨ t.bufRead c = s.bufRead c) :
    (t.buildHeader Config.hw).bufRead c = (s.buildHeader Config.hw).bufRead c := by
  simp only [State.buildHeader, hseq, hcmd, hoff, sequenceAt_eq, commandAt_eq, offsetAt_eq, hw_field]
  by_cases hoffset : 12 ≤ c ∧ c < 16
  · exact bufRead_memWrite_congr (.inl (by simpa using hoffset))
  refine bufRead_memWrite_congr (.inr ?_)
  by_cases hcommand : 8 ≤ c ∧ c < 12
  · exact bufRead_memWrite_congr (.inl (by simpa using hcommand))
  exact bufRead_memWrite_congr (.inr (bufRead_memWrite_congr (h.imp_left fun _ => by simp; omega)))

/-- The raw CRC that `ENC` leaves depends on the four registers it reads and on the payload alone. -/
theorem encodeFrame_crc_congr {s t : State} (hseq : t.seq = s.seq) (hcmd : t.cmd = s.cmd) (hoff : t.off = s.off)
    (hplen : t.plen = s.plen) (h : ∀ a, 16 ≤ a → a < 16 + s.plen.toNat → t.bufRead a = s.bufRead a) :
    (t.encodeFrame Config.hw).crc = (s.encodeFrame Config.hw).crc := by
  have hlen : ((s.buildHeader Config.hw).setEncLength Config.hw).len.toNat ≤ 16 + s.plen.toNat := by
    simpa [encLength] using Nat.mod_le _ _
  simp only [State.encodeFrame, storeChecksum_crc, absorbFrame_crc]
  refine congrArg (crcRaw Config.hw) (covered_congr (by simp [encLength, hplen]) fun a hfield ha => ?_)
  rw [hw_field] at hfield
  rw [bufRead_setEncLength, bufRead_setEncLength]
  exact bufRead_buildHeader_congr hseq hcmd hoff ((Nat.lt_or_ge a 16).imp (⟨hfield, ·⟩) (h a · (by omega)))

theorem encodeFrame_cks (s : State) : (s.encodeFrame Config.hw).cks = (s.encodeFrame Config.hw).crc ^^^ 0xFFFFFFFF#32 := rfl

/-- The bytes after `ENC` too: those of the header are its own, the others as they were. -/
theorem bufRead_encodeFrame_congr {s t : State} {c : Nat} (hseq : t.seq = s.seq) (hcmd : t.cmd = s.cmd) (hoff : t.off = s.off)
    (hplen : t.plen = s.plen) (hpay : ∀ a, 16 ≤ a → a < 16 + s.plen.toNat → t.bufRead a = s.bufRead a)
    (h : c < 16 ∨ t.bufRead c = s.bufRead c) :
    (t.encodeFrame Config.hw).bufRead c = (s.encodeFrame Config.hw).bufRead c := by
  by_cases hc : 4 ≤ c
  · rw [bufRead_encodeFrame_covered hc, bufRead_encodeFrame_covered hc]
    exact bufRead_buildHeader_congr hseq hcmd hoff (h.imp_left (⟨hc, ·⟩))
  · have hcrc := encodeFrame_crc_congr hseq hcmd hoff hplen hpay
    simp only [State.encodeFrame, storeChecksum_crc] at hcrc
    simp only [State.encodeFrame, State.storeChecksum, State.checksum, hcrc, checksumAt_eq]
    exact bufRead_memWrite_congr (.inl ⟨Nat.zero_le c, by rw [enc32_length]; omega⟩)

/-! ### Two states that agree on what an instruction reads -/

/-- Two runs of an instruction, from `s` to `t` and from `s'` to `t'`, with the same effect: equal registers, equal answers, and
bytes that were equal are equal still. -/
structure SameEffect (s s' t t' : State) : Prop where
  regs : ∀ r, t'.readReg r = t.readReg r
  bytes : ∀ a, s'.bufRead a = s.bufRead a → t'.bufRead a = t.bufRead a
  answers : ∃ rs ks, t.responses = s.responses ++ rs ∧ t'.responses = s'.responses ++ rs ∧ t.classes = s.classes ++ ks ∧
    t'.classes = s'.classes ++ ks

/-- Two updates of registers that leave them equal, each followed by the same response. The side conditions hold by unfolding
where the update touches no byte and reads none. -/
theorem SameEffect.respond {s s' u u' : State} {c : ResultCode} {d d' : Word}
    (hregs : ∀ r, u'.readReg r = u.readReg r := by exact fun r => by cases r <;> rfl)
    (hd : d' = d := by rfl)
    (hbytes : ∀ a, s'.bufRead a = s.bufRead a → u'.bufRead a = u.bufRead a := by exact fun _ h => h)
    (hr : u.responses = s.responses ∧ u'.responses = s'.responses := by exact ⟨rfl, rfl⟩)
    (hc : u.classes = s.classes ∧ u'.classes = s'.classes := by exact ⟨rfl, rfl⟩) :
    SameEffect s s' (u.respond c d) (u'.respond c d') where
  regs r := by have := hregs r; cases r <;> exact this
  bytes := hbytes
  answers := ⟨[⟨c, d⟩], [], by simp [hr], by simp [hr, hd], by simp [hc], by simp [hc]⟩

theorem SameEffect.classify {s s' : State} (k : CmdClass) (hregs : ∀ r, s'.readReg r = s.readReg r) :
    SameEffect s s' { s with classes := s.classes ++ [k] } { s' with classes := s'.classes ++ [k] } where
  regs r := by have := hregs r; cases r <;> exact this
  bytes _ h := h
  answers := ⟨[], [k], by simp, by simp, rfl, rfl⟩

/-- Absorbing frames with equal covered bytes, then giving the same verdict and response. -/
theorem SameEffect.absorb {s s' : State} {c : ResultCode} {ok : Bool} {d d' : Word}
    (hregs : ∀ r, s'.readReg r = s.readReg r) (hcov : s'.covered Config.hw = s.covered Config.hw) (hd : d' = d) :
    SameEffect s s' (((s.absorbFrame Config.hw).setVerdict c ok).respond c d)
      (((s'.absorbFrame Config.hw).setVerdict c ok).respond c d') := by
  refine .respond (fun r => ?_) hd
  have := hregs r
  cases r <;> simp_all [State.readReg]

/-- Whether a frame verifies depends on `LEN` and on the bytes of the frame alone (41_codec.md R120). -/
theorem frameVerifies_congr {s t : State} (hl : t.len = s.len) (h16 : 16 ≤ s.len.toNat)
    (h : ∀ a, a < s.len.toNat → t.bufRead a = s.bufRead a) : FrameVerifies Config.hw t ↔ FrameVerifies Config.hw s := by
  rw [FrameVerifies, covered_congr hl fun a _ ha => h a ha, readField_congr fun k _ hk => h k (by simp at hk; omega)]
  rfl

/-- What an instruction does depends on the registers and on the bytes it reads alone (20_memory.md R46, R55). Once `s'` is
written with the registers of `s`, the cases that touch no byte hold by unfolding; the last five read the buffer. -/
theorem ExecCase.sameEffect {s s' t : State} {i : Instr} (h : ExecCase s i t) (hag : AgreeOn (ReadsByte s i) s s') :
    ∃ t', ExecCase s' i t' ∧ SameEffect s s' t t' := by
  obtain ⟨hregs, hread⟩ := hag
  have hlen : s'.len = s.len := hregs .len
  obtain ⟨b, e, ins, rs, ks, rfl⟩ : ∃ b e ins rs ks,
    s' = { s with buf := b, epoch := e, inputs := ins, responses := rs, classes := ks } :=
      ⟨_, _, _, _, _, eq_of_readReg_eq hregs⟩
  cases h with
  | nop => exact ⟨_, .nop, .respond⟩
  | clr => exact ⟨_, .clr, .respond⟩
  | crci => exact ⟨_, .crci, .respond⟩
  | crcb b => exact ⟨_, .crcb b, .respond⟩
  | crcf => exact ⟨_, .crcf, .respond⟩
  | crcpShort h => exact ⟨_, .crcpShort h, .respond⟩
  | crcpOver h => exact ⟨_, .crcpOver h, .respond⟩
  | wrb a b h =>
    refine ⟨_, .wrb a b h, .respond (hbytes := fun k hk => ?_)⟩
    rw [bufRead_bufWrite, bufRead_bufWrite, hk]
  | wrbBad a b h => exact ⟨_, .wrbBad a b h, .respond⟩
  | rdb a h => exact ⟨_, .rdb a h, .respond (hd := congrArg _ (hread a.toNat ⟨rfl, h⟩))⟩
  | rdbBad a h => exact ⟨_, .rdbBad a h, .respond⟩
  | wrrSeq a d h => exact ⟨_, .wrrSeq a d h, .respond⟩
  | wrrCmd a d h => exact ⟨_, .wrrCmd a d h, .respond⟩
  | wrrOff a d h => exact ⟨_, .wrrOff a d h, .respond⟩
  | wrrPlen a d h => exact ⟨_, .wrrPlen a d h, .respond⟩
  | wrrLen a d h => exact ⟨_, .wrrLen a d h, .respond⟩
  | wrrReadOnly a d h => exact ⟨_, .wrrReadOnly a d h, .respond⟩
  | wrrBad a d h => exact ⟨_, .wrrBad a d h, .respond⟩
  | rdr a r h hr => exact ⟨_, .rdr a r h hr, .respond (hd := hregs r)⟩
  | rdrBad a h => exact ⟨_, .rdrBad a h, .respond⟩
  | encOver h => exact ⟨_, .encOver h, .respond⟩
  | decShort h => exact ⟨_, .decShort h, .respond⟩
  | decOver h => exact ⟨_, .decOver h, .respond⟩
  | vfyShort h => exact ⟨_, .vfyShort h, .respond⟩
  | vfyOver h => exact ⟨_, .vfyOver h, .respond⟩
  | name => exact ⟨_, .name, .classify _ hregs⟩
  | size => exact ⟨_, .size, .classify _ hregs⟩
  | hash => exact ⟨_, .hash, .classify _ hregs⟩
  | data => exact ⟨_, .data, .classify _ hregs⟩
  | stop => exact ⟨_, .stop, .classify _ hregs⟩
  | crcpLegal h =>
    have hcov := covered_congr (cfg := Config.hw) hlen fun a _ ha => hread a ⟨h, ha⟩
    exact ⟨_, .crcpLegal h, .absorb hregs hcov (by simp [State.checksum, hcov])⟩
  | vfyMatch h hv =>
    have hcov := covered_congr (cfg := Config.hw) hlen fun a _ ha => hread a ⟨h, ha⟩
    have hiff := frameVerifies_congr hlen h.1 fun a ha => hread a ⟨h, ha⟩
    exact ⟨_, .vfyMatch h (hiff.2 hv), .absorb hregs hcov rfl⟩
  | vfyMismatch h hv =>
    have hcov := covered_congr (cfg := Config.hw) hlen fun a _ ha => hread a ⟨h, ha⟩
    have hiff := frameVerifies_congr hlen h.1 fun a ha => hread a ⟨h, ha⟩
    exact ⟨_, .vfyMismatch h (mt hiff.1 hv), .absorb hregs hcov rfl⟩
  | decLegal h =>
    have hbyte (k : Nat) (hk : k < 16) := hread k ⟨h, hk.trans_le h.1⟩
    have hfield (a : Nat) (ha : a + 4 ≤ 16) := readField_congr (cfg := Config.hw) (a := a) fun k _ hk => hbyte k (by omega)
    have htag := readTag_congr (a := 8) fun k _ hk => hbyte k (by omega)
    exact ⟨_, .decLegal h, .respond (fun r => by cases r <;> simp [State.readReg, hfield, htag]) (by simp [htag])⟩
  | encFits h =>
    have hpay (a : Nat) (h1 : 16 ≤ a) (h2 : a < 16 + s.plen.toNat) := hread a ⟨h, h1, h2⟩
    have hcrc := encodeFrame_crc_congr (hregs .seq) (hregs .cmd) (hregs .off) (hregs .plen) hpay
    refine ⟨_, .encFits h, .respond (fun r => ?_) ?_ (fun a ha => ?_) ?_ ?_⟩
    · cases r <;> simp [State.readReg, encodeFrame_cks, encLength, hcrc]
    · simp [encodeFrame_cks, hcrc]
    · simpa using bufRead_encodeFrame_congr (hregs .seq) (hregs .cmd) (hregs .off) (hregs .plen) hpay (.inr ha)
    · simp
    · simp

/-- No instruction writes a byte outside `BUF` (20_memory.md R46). -/
theorem ExecCase.outside_kept {s t : State} {i : Instr} (h : ExecCase s i t) {a : Nat} (ha : 1024 ≤ a) :
    t.bufRead a = s.bufRead a := by
  cases i with
  | wrb b v =>
    cases h with
    | wrb _ _ hb => exact bufSameOutside_bufWrite s b.toNat v a (by omega)
    | wrbBad => rfl
  | enc => exact h.enc_bufSameOutside a (by omega)
  | _ => exact h.bufSame (by simp) (by simp) a

/-- Settles O33: what an instruction reads lies inside `BUF`, so states that agree there see the same effect. -/
theorem noAccessOutsideBuffer : Obligations.NoAccessOutsideBuffer := by
  unfold Obligations.NoAccessOutsideBuffer
  intro i s s' hag
  obtain ⟨t, ht, hc⟩ := exec_cases i s
  obtain ⟨t', hc', heff⟩ := hc.sameEffect (hag.mono fun _ => ReadsByte.lt_1024)
  exact ⟨t, t', ht, hc'.exec_eq, ⟨heff.regs, fun a ha => heff.bytes a (hag.2 a ha)⟩, heff.answers,
    fun _ => hc.outside_kept⟩

/-- Two states that agree on the bytes a request reads give the same response and the same registers. -/
theorem exec_request_congr {i : Instr} {s s' : State} (hi : i.isRequest = true) (hag : AgreeOn (ReadsByte s i) s s') :
    ∃ t t' c d, exec i s = .next t ∧ exec i s' = .next t' ∧ Answered s t c d ∧ Answered s' t' c d ∧
      ∀ r, t'.readReg r = t.readReg r := by
  obtain ⟨t, ht, hc⟩ := exec_cases i s
  obtain ⟨t', hc', heff⟩ := hc.sameEffect hag
  obtain ⟨c, d, hans⟩ := hc.answered hi
  obtain ⟨c', d', hans'⟩ := hc'.answered hi
  obtain ⟨rs, _, hrs, hrs', -⟩ := heff.answers
  have hone : rs = [⟨c, d⟩] := List.append_cancel_left (hrs.symm.trans hans.1)
  have hone' : rs = [⟨c', d'⟩] := List.append_cancel_left (hrs'.symm.trans hans'.1)
  obtain ⟨rfl, rfl⟩ : c = c' ∧ d = d' := by simpa using hone.symm.trans hone'
  exact ⟨t, t', c, d, ht, hc'.exec_eq, hans, hans', heff.regs⟩

/-- Settles O32: `DEC`, `VFY` and `CRCP` read the frame alone, `ENC` the payload alone. -/
theorem bytesBeyondFrameIgnored : Obligations.BytesBeyondFrameIgnored := by
  unfold Obligations.BytesBeyondFrameIgnored
  refine ⟨fun i s s' hi hag => ?_, fun s s' hag => exec_request_congr rfl (hag.mono fun a ha => ha.2)⟩
  rcases hi with rfl | rfl | rfl <;> exact exec_request_congr rfl (hag.mono fun a ha => ha.2)

/-! ### Issuing an operation twice -/

/-- Two runs of an operation in a row, from `s` to `t` and on to `u`, where the second changes nothing of the block and gives the
answer of the first (20_memory.md R48). -/
def Repeats (s t u : State) : Prop :=
  ∃ c d, Answered s t c d ∧ Answered t u c d ∧ (∀ r, u.readReg r = t.readReg r) ∧ BufSame t u

@[simp] theorem readReg_respond (s : State) (c : ResultCode) (d : Word) (r : Reg) : (s.respond c d).readReg r = s.readReg r := by
  cases r <;> rfl

/-- Writing a verdict where it stands already changes nothing. -/
theorem putVerdict_twice (w : Word) (c : BitVec 4) (ok : BitVec 1) :
    putField (putField (putField (putField w 0 4 c) 4 1 ok) 0 4 c) 4 1 ok = putField (putField w 0 4 c) 4 1 ok := by
  refine BitVec.eq_of_getLsbD_eq fun i hi => ?_
  simp only [getLsbD_putField _ _ _ _ _ hi]
  split_ifs <;> rfl

/-- Nor does writing a verdict and a class. -/
theorem putVerdict_putClass_twice (w : Word) (c : BitVec 4) (ok : BitVec 1) (k : BitVec 3) :
    putField (putField (putField (putField (putField (putField w 0 4 c) 4 1 ok) 8 3 k) 0 4 c) 4 1 ok) 8 3 k =
      putField (putField (putField w 0 4 c) 4 1 ok) 8 3 k := by
  refine BitVec.eq_of_getLsbD_eq fun i hi => ?_
  simp only [getLsbD_putField _ _ _ _ _ hi]
  split_ifs <;> rfl

/-- The second run repeats the first if it gives the same answer after an update to `y`, which has the registers and the bytes
the first run left. -/
theorem repeats_respond {s t y : State} {c : ResultCode} {d : Word} (ht : Answered s t c d)
    (hy : y.responses = t.responses ∧ y.inputs = t.inputs ∧ y.classes = t.classes ∧ y.epoch = t.epoch)
    (hregs : RegsSameExcept [] t y) (hbuf : ∀ a, y.bufRead a = t.bufRead a) : Repeats s t (y.respond c d) := by
  obtain ⟨hyr, hyi, hyc, hye⟩ := hy
  exact ⟨c, d, ht, answered_respond c d hyr hyi hyc hye, fun r => by simpa using hregs r (by simp), hbuf⟩

/-- A verdict that `STATUS` holds already, given again. -/
theorem repeats_verdict {s t y : State} {c : ResultCode} {d : Word} {ok : Bool} (ht : Answered s t c d)
    (hst : t.status = (s.setVerdict c ok).status) (hy : y = t.setCrc t.crc) :
    Repeats s t ((y.setVerdict c ok).respond c d) := by
  subst hy
  exact repeats_respond ht (by simp) (regsSameExcept_iff.2 (by simp [hst, putVerdict_twice])) (by simp)

/-- A failing check of `ENC` or `DEC`, which write `CLASS` too, fails again. -/
theorem repeats_unclassified {s t : State} {c : ResultCode} (ht : Answered s t c 0)
    (hst : t.status = ((s.setVerdict c false).setClass .unknown).status) :
    Repeats s t (((t.setVerdict c false).setClass .unknown).respond c 0) :=
  repeats_respond ht (by simp) (regsSameExcept_iff.2 (by simp [hst, putVerdict_putClass_twice])) (by simp)

/-- The raw CRC of a frame that `CRC` holds already. -/
theorem absorbFrame_eq_self {s t : State} (hlen : t.len = s.len) (hbuf : BufSame s t)
    (hcrc : t.crc = (s.absorbFrame Config.hw).crc) : t.absorbFrame Config.hw = t.setCrc t.crc := by
  rw [hcrc, absorbFrame_crc, ← covered_congr hlen fun a _ _ => hbuf a]
  rfl

theorem ExecCase.crcp_repeats {s t : State} (h : ExecCase s .crcp t) : ∃ u, ExecCase t .crcp u ∧ Repeats s t u := by
  have hlen : t.len = s.len := h.regs_kept .len (by simp [writtenRegs])
  have hbuf : BufSame s t := h.bufSame (by simp) (by simp)
  have hsum : (t.absorbFrame Config.hw).checksum Config.hw = (s.absorbFrame Config.hw).checksum Config.hw := by
    simp only [State.checksum, absorbFrame_crc, covered_congr hlen fun a _ _ => hbuf a]
  cases h with
  | crcpShort h => exact ⟨_, .crcpShort (by rwa [hlen]), repeats_verdict (answered_respond _ _) rfl rfl⟩
  | crcpOver h => exact ⟨_, .crcpOver (by rwa [hlen]), repeats_verdict (answered_respond _ _) rfl rfl⟩
  | crcpLegal h =>
    refine ⟨_, .crcpLegal (by rwa [LengthLegal, hlen]), ?_⟩
    rw [hsum]
    exact repeats_verdict (answered_respond _ _) rfl (absorbFrame_eq_self hlen hbuf rfl)

theorem ExecCase.vfy_repeats {s t : State} (h : ExecCase s .vfy t) : ∃ u, ExecCase t .vfy u ∧ Repeats s t u := by
  have hlen : t.len = s.len := h.regs_kept .len (by simp [writtenRegs])
  have hbuf : BufSame s t := h.bufSame (by simp) (by simp)
  have hiff (h16 : 16 ≤ s.len.toNat) := frameVerifies_congr hlen h16 fun a _ => hbuf a
  cases h with
  | vfyShort h => exact ⟨_, .vfyShort (by rwa [hlen]), repeats_verdict (answered_respond _ _) rfl rfl⟩
  | vfyOver h => exact ⟨_, .vfyOver (by rwa [hlen]), repeats_verdict (answered_respond _ _) rfl rfl⟩
  | vfyMatch h hv =>
    refine ⟨_, .vfyMatch (by rwa [LengthLegal, hlen]) ((hiff h.1).2 hv), ?_⟩
    exact repeats_verdict (answered_respond _ _) rfl (absorbFrame_eq_self hlen hbuf rfl)
  | vfyMismatch h hv =>
    refine ⟨_, .vfyMismatch (by rwa [LengthLegal, hlen]) (mt (hiff h.1).1 hv), ?_⟩
    exact repeats_verdict (answered_respond _ _) rfl (absorbFrame_eq_self hlen hbuf rfl)

/-- `DEC` extracts the same fields again: it writes neither `LEN` nor `BUF`. -/
theorem repeats_extractFields {s t : State}
    (hans : Answered s t .none ((classify Config.hw (s.extractFields Config.hw).cmd).number.setWidth 32)) (hbuf : BufSame s t)
    (hregs : RegsSameExcept [.status] (s.extractFields Config.hw) t)
    (hst : t.status = (((s.extractFields Config.hw).setVerdict .none false).setClass
      (classify Config.hw (s.extractFields Config.hw).cmd)).status) :
    Repeats s t ((((t.extractFields Config.hw).setVerdict .none false).setClass
      (classify Config.hw (t.extractFields Config.hw).cmd)).respond .none
        ((classify Config.hw (t.extractFields Config.hw).cmd).number.setWidth 32)) := by
  have hfield (a : Nat) : t.readField Config.hw a = s.readField Config.hw a := readField_congr fun k _ _ => hbuf k
  have htag : (t.extractFields Config.hw).cmd = (s.extractFields Config.hw).cmd := readTag_congr fun k _ _ => hbuf k
  obtain ⟨hcks, hseq, hcmd, hoff, hplen, hlen, -, -⟩ := regsSameExcept_iff.1 hregs
  rw [htag]
  refine repeats_respond hans (by simp) (regsSameExcept_iff.2 ?_) (by simp)
  simp_all [putVerdict_putClass_twice]

theorem ExecCase.dec_repeats {s t : State} (h : ExecCase s .dec t) : ∃ u, ExecCase t .dec u ∧ Repeats s t u := by
  have hlen : t.len = s.len := h.regs_kept .len (by simp [writtenRegs])
  cases h with
  | decShort h => exact ⟨_, .decShort (by rwa [hlen]), repeats_unclassified (answered_respond _ _) rfl⟩
  | decOver h => exact ⟨_, .decOver (by rwa [hlen]), repeats_unclassified (answered_respond _ _) rfl⟩
  | decLegal h =>
    refine ⟨_, .decLegal (by rwa [LengthLegal, hlen]), ?_⟩
    refine repeats_extractFields (answered_respond _ _) (fun _ => by simp) ?_ (by simp)
    exact regsSameExcept_iff.2 (by simp)

/-- `ENC` builds the same frame again: it writes none of the registers it reads, and no byte of the payload. -/
theorem repeats_encodeFrame {s t : State} (hans : Answered s t .none (s.encodeFrame Config.hw).cks)
    (hbuf : BufSame (s.encodeFrame Config.hw) t)
    (hregs : RegsSameExcept [.status] (s.encodeFrame Config.hw) t)
    (hst : t.status = ((s.setVerdict .none false).setClass (classify Config.hw s.cmd)).status) :
    Repeats s t ((((t.encodeFrame Config.hw).setVerdict .none false).setClass (classify Config.hw t.cmd)).respond .none
      (t.encodeFrame Config.hw).cks) := by
  have hseq : t.seq = s.seq := (hregs .seq (by decide)).trans (encodeFrame_seq _ s)
  have hcmd : t.cmd = s.cmd := (hregs .cmd (by decide)).trans (encodeFrame_cmd _ s)
  have hoff : t.off = s.off := (hregs .off (by decide)).trans (encodeFrame_off _ s)
  have hplen : t.plen = s.plen := (hregs .plen (by decide)).trans (encodeFrame_plen _ s)
  obtain ⟨hcks, -, -, -, -, hlen, hcrc, -⟩ := regsSameExcept_iff.1 hregs
  have hpay (a : Nat) (ha : 16 ≤ a) : t.bufRead a = s.bufRead a := (hbuf a).trans (bufRead_encodeFrame_outside ha)
  have hcrc' : (t.encodeFrame Config.hw).crc = (s.encodeFrame Config.hw).crc :=
    encodeFrame_crc_congr hseq hcmd hoff hplen fun a ha _ => hpay a ha
  have hcks' : (t.encodeFrame Config.hw).cks = (s.encodeFrame Config.hw).cks := by rw [encodeFrame_cks, hcrc', encodeFrame_cks]
  rw [hcks', hcmd]
  refine repeats_respond hans (by simp) (regsSameExcept_iff.2 ?_) fun a => ?_
  · simp [hseq, hcmd, hoff, hplen, hst, hcks, hcks', hlen, hcrc, hcrc', encLength, putVerdict_putClass_twice]
  · rw [bufRead_setClass, bufRead_setVerdict]
    exact (bufRead_encodeFrame_congr hseq hcmd hoff hplen (fun a ha _ => hpay a ha)
      ((Nat.lt_or_ge a 16).imp_right (hpay a))).trans (hbuf a).symm

theorem ExecCase.enc_repeats {s t : State} (h : ExecCase s .enc t) : ∃ u, ExecCase t .enc u ∧ Repeats s t u := by
  have hplen : t.plen = s.plen := h.regs_kept .plen (by simp [writtenRegs])
  cases h with
  | encOver h => exact ⟨_, .encOver (by rwa [hplen]), repeats_unclassified (answered_respond _ _) rfl⟩
  | encFits h =>
    refine ⟨_, .encFits (by rwa [hplen]), ?_⟩
    refine repeats_encodeFrame (answered_respond _ _) (fun _ => by simp) ?_ (by simp)
    exact regsSameExcept_iff.2 (by simp)

theorem ExecCase.nop_repeats {s t : State} (h : ExecCase s .nop t) : ∃ u, ExecCase t .nop u ∧ Repeats s t u := by
  cases h
  exact ⟨_, .nop, repeats_respond ⟨rfl, rfl, rfl, rfl⟩ ⟨rfl, rfl, rfl, rfl⟩ (fun _ _ => rfl) fun _ => rfl⟩

/-- `RDB` and `RDR` in range and `CRCF` change nothing of the block, so they give the same answer again (20_memory.md R48). -/
theorem exec_pure {i : Instr} {s : State}
    (hi : i = .crcf ∨ (∃ a : Addr, a.toNat < 1024 ∧ i = .rdb a) ∨ (∃ a : Addr, a.toNat < 8 ∧ i = .rdr a)) :
    ∃ d, exec i s = .next (s.respond .none d) ∧ exec i (s.respond .none d) = .next ((s.respond .none d).respond .none d) := by
  rcases hi with rfl | ⟨a, ha, rfl⟩ | ⟨a, ha, rfl⟩
  · exact ⟨_, exec_crcf s, exec_crcf _⟩
  · exact ⟨_, exec_rdb s ha, exec_rdb _ ha⟩
  · obtain ⟨t, ht, hc⟩ := exec_cases_rdr a s
    cases hc with
    | rdr _ r _ hr => exact ⟨_, exec_rdr s hr, by rw [exec_rdr _ hr, readReg_respond]⟩
    | rdrBad _ hbad => omega

/-- Settles O34: each operation by its own case; `CRCB` from the reset state absorbs a second byte. -/
theorem repeatedOperations : Obligations.RepeatedOperations := by
  unfold Obligations.RepeatedOperations
  refine ⟨fun i s hi => ?_, fun i s hi => ?_, State.reset, _, _, 0, exec_crcb _ _, exec_crcb _ _, by decide +kernel⟩
  · obtain ⟨t, ht, hc⟩ := exec_cases i s
    have hrep : ∃ u, ExecCase t i u ∧ Repeats s t u := by
      rcases hi with rfl | rfl | rfl | rfl | rfl
      · exact hc.dec_repeats
      · exact hc.vfy_repeats
      · exact hc.crcp_repeats
      · exact hc.nop_repeats
      · exact hc.enc_repeats
    obtain ⟨u, hu, c, d, hrest⟩ := hrep
    exact ⟨t, u, c, d, ht, hu.exec_eq, hrest⟩
  · obtain ⟨d, h1, h2⟩ := exec_pure hi (s := s)
    exact ⟨_, _, d, h1, h2, ⟨rfl, rfl, rfl, rfl⟩, ⟨rfl, rfl, rfl, rfl⟩, fun r => by simp, fun _ => rfl⟩

/-! ### The other byte order -/

/-- The bytes of a joined word. -/
theorem joinBE_bytes (b0 b1 b2 b3 : Byte) :
    (joinBE b0 b1 b2 b3).extractLsb' 0 8 = b3 ∧ (joinBE b0 b1 b2 b3).extractLsb' 8 8 = b2 ∧
      (joinBE b0 b1 b2 b3).extractLsb' 16 8 = b1 ∧ (joinBE b0 b1 b2 b3).extractLsb' 24 8 = b0 := by
  have hhi (start : Nat) (h : 8 ≤ start) :
      (joinBE b0 b1 b2 b3).extractLsb' start 8 = (b0 ++ b1 ++ b2).extractLsb' (start - 8) 8 :=
    BitVec.extractLsb'_append_eq_of_le h
  have hmid (start : Nat) (h : 8 ≤ start) : (b0 ++ b1 ++ b2).extractLsb' start 8 = (b0 ++ b1).extractLsb' (start - 8) 8 :=
    BitVec.extractLsb'_append_eq_of_le h
  refine ⟨BitVec.extractLsb'_append_eq_right, ?_, ?_, ?_⟩
  · exact (hhi 8 (by omega)).trans BitVec.extractLsb'_append_eq_right
  · exact (hhi 16 (by omega)).trans ((hmid 8 (by omega)).trans BitVec.extractLsb'_append_eq_right)
  · exact (hhi 24 (by omega)).trans ((hmid 16 (by omega)).trans BitVec.extractLsb'_append_eq_left)

/-- Swapping the bytes of a word is joining them from the other end. -/
theorem swapBytes_joinBE (b0 b1 b2 b3 : Byte) : swapBytes (joinBE b0 b1 b2 b3) = joinBE b3 b2 b1 b0 := by
  obtain ⟨h3, h2, h1, h0⟩ := joinBE_bytes b0 b1 b2 b3
  rw [swapBytes, h3, h2, h1, h0, joinBE]

/-- A word that joins to the same from both ends is a palindrome. -/
theorem joinBE_eq_reversed_iff {b0 b1 b2 b3 : Byte} : joinBE b0 b1 b2 b3 = joinBE b3 b2 b1 b0 ↔ b0 = b3 ∧ b1 = b2 := by
  refine ⟨fun h => ?_, fun ⟨h0, h1⟩ => by rw [h0, h1]⟩
  obtain ⟨-, -, h1, h0⟩ := joinBE_bytes b0 b1 b2 b3
  obtain ⟨-, -, h2, h3⟩ := joinBE_bytes b3 b2 b1 b0
  exact ⟨by rw [← h0, h, h3], by rw [← h1, h, h2]⟩

/-- A field reads byte-swapped under the other byte order (20_memory.md R43). -/
theorem readField_hwLittle (s : State) (a : Nat) :
    s.readField Config.hwLittle a = swapBytes (s.readField Config.hw a) := by
  simp only [State.readField, dec32, hw_endian, hwLittle_endian, swapBytes_joinBE]

/-- A successful `DEC` of a block built with any parameters. -/
theorem execDecWith_legal {cfg : Config} {s : State} (h : lengthError cfg s = none) : execDecWith cfg s =
    .next ((((s.extractFields cfg).setVerdict .none false).setClass (classify cfg (s.extractFields cfg).cmd)).respond .none
      ((classify cfg (s.extractFields cfg).cmd).number.setWidth 32)) := by
  simp only [execDecWith, h]

/-- The length check does not depend on the byte order. -/
theorem lengthError_hwLittle (s : State) : lengthError Config.hwLittle s = lengthError Config.hw s := rfl

/-- Nor do the CRC unit's bit steps. -/
theorem crcBits_hwLittle (n : Nat) (c : Word) : crcBits Config.hwLittle n c = crcBits Config.hw n c := by
  induction n generalizing c with
  | zero => rfl
  | succ n ih => exact ih _

theorem crc32_hwLittle (bytes : List Byte) : crc32 Config.hwLittle bytes = crc32 Config.hw bytes := by
  have hbyte : crcByte Config.hwLittle = crcByte Config.hw := funext₂ fun _ _ => crcBits_hwLittle 8 _
  simp only [crc32, crcRaw, crcFold, hbyte, hw_crcInit, hwLittle_crcInit, hw_crcXorOut, hwLittle_crcXorOut]

/-- What `VFY` answers, whatever the block is built with: 1 exactly for a legal frame that verifies (41_codec.md R119). -/
theorem execVfyWith_answered (cfg : Config) (s : State) : ∃ t c d, execVfyWith cfg s = .next t ∧ Answered s t c d ∧
    (d = 1 ↔ lengthError cfg s = none ∧ FrameVerifies cfg s) := by
  unfold execVfyWith
  split
  · rename_i c hc
    exact ⟨_, c, 0, rfl, answered_respond _ _, by simp [hc]⟩
  · rename_i hnone
    split
    · rename_i hv
      exact ⟨_, .none, 1, rfl, answered_respond _ _, iff_of_true rfl ⟨hnone, hv⟩⟩
    · rename_i hv
      refine ⟨_, .checksumMismatch, 0, rfl, ?_, iff_of_false (by decide) fun h => hv h.2⟩
      rw [State.absorbMismatch]
      split <;> exact answered_respond _ _

/-- A checksum that stands big-endian in the frame stands there little-endian too exactly if its bytes are a palindrome. -/
theorem frameVerifies_hwLittle_iff {s : State} (hv : FrameVerifies Config.hw s) :
    FrameVerifies Config.hwLittle s ↔ s.bufRead 0 = s.bufRead 3 ∧ s.bufRead 1 = s.bufRead 2 := by
  have hcks : crc32 Config.hwLittle (s.covered Config.hwLittle) = s.readField Config.hw 0 := (crc32_hwLittle _).trans hv
  rw [FrameVerifies, hcks, readField_hwLittle]
  simp only [checksumAt_eq, State.readField, dec32, hw_endian, swapBytes_joinBE]
  exact joinBE_eq_reversed_iff

/-- Settles O45: the fields by byte swap; the checksum, the same under both orders, is read as its own swap exactly if its bytes
are a palindrome. -/
theorem otherByteOrderSwapsFields : Obligations.OtherByteOrderSwapsFields := by
  unfold Obligations.OtherByteOrderSwapsFields
  refine ⟨fun s h => ?_, fun s v hv hans => ?_⟩
  · have hnone := lengthError_legal h
    refine ⟨_, _, execDecWith_legal hnone, execDecWith_legal ((lengthError_hwLittle s).trans hnone), ?_⟩
    simp [readField_hwLittle]
  · obtain ⟨t, c, d, ht, hans', hiff⟩ := execVfyWith_answered Config.hw s
    obtain rfl : v = t := by simpa [hv] using ht
    obtain ⟨-, rfl⟩ := hans.unique hans'
    obtain ⟨hnone, hver⟩ := hiff.1 rfl
    obtain ⟨v', c', d', hv', hans', hiff'⟩ := execVfyWith_answered Config.hwLittle s
    refine ⟨v', c', d', hv', hans', hiff'.trans ?_⟩
    rw [lengthError_hwLittle, frameVerifies_hwLittle_iff hver]
    exact and_iff_right hnone

end Sys2Proof.Machine

/-! ## Proofs of the family `30_encoding.md`: decoder and encoder, header fields, command tags, requests and their answers -/

namespace Sys2Proof.Machine

/-! ### Decoding what was encoded -/

/-- The decoder reads back the operation code and the fields that the encoder put in place (30_encoding.md R72, R74). -/
theorem decode_encode (i : Instr) : decode (encode i) = .ok i := by
  cases i with
  | crcb b | wrb a b | rdb a | wrr a d | rdr a => simp [encode, decode, decodeRequest]
  | _ => rfl

/-- Settles O2: one row of the operation map after the other. -/
theorem decodeInvertsEncode : Obligations.DecodeInvertsEncode := decode_encode

/-- Settles O1: fixed words, run through the decoder. -/
theorem specWordsDecode : Obligations.SpecWordsDecode := by
  unfold Obligations.SpecWordsDecode
  decide

/-! ### Command words: their class and their decoding -/

/-- The tag rows, and what is left: the class of a command word and what the decoder answers (30_encoding.md R66, R67, R82). -/
theorem command_cases (v : Word) :
    (v = 0x4E414D45#32 ∧ classify Config.hw v = .name ∧ decode (.command v) = .ok .name) ∨
    (v = 0x53495A45#32 ∧ classify Config.hw v = .size ∧ decode (.command v) = .ok .size) ∨
    (v = 0x48415348#32 ∧ classify Config.hw v = .hash ∧ decode (.command v) = .ok .hash) ∨
    (v = 0x44415441#32 ∧ classify Config.hw v = .data ∧ decode (.command v) = .ok .data) ∨
    (v = 0x53544F50#32 ∧ classify Config.hw v = .stop ∧ decode (.command v) = .ok .stop) ∨
    ((v ≠ 0x4E414D45#32 ∧ v ≠ 0x53495A45#32 ∧ v ≠ 0x48415348#32 ∧ v ≠ 0x44415441#32 ∧ v ≠ 0x53544F50#32) ∧
      classify Config.hw v = .unknown ∧ decode (.command v) = .error (.unknownTag v)) := by
  by_cases hname : v = 0x4E414D45#32
  · subst hname; exact .inl ⟨rfl, rfl, rfl⟩
  by_cases hsize : v = 0x53495A45#32
  · subst hsize; exact .inr (.inl ⟨rfl, rfl, rfl⟩)
  by_cases hhash : v = 0x48415348#32
  · subst hhash; exact .inr (.inr (.inl ⟨rfl, rfl, rfl⟩))
  by_cases hdata : v = 0x44415441#32
  · subst hdata; exact .inr (.inr (.inr (.inl ⟨rfl, rfl, rfl⟩)))
  by_cases hstop : v = 0x53544F50#32
  · subst hstop; exact .inr (.inr (.inr (.inr (.inl ⟨rfl, rfl, rfl⟩))))
  have hd : decode (.command v) = .error (.unknownTag v) := by
    simp [decode, decodeCommand, hname, hsize, hhash, hdata, hstop]
  exact .inr (.inr (.inr (.inr (.inr ⟨⟨hname, hsize, hhash, hdata, hstop⟩, classify_of_decode_error hd, hd⟩))))

/-- Settles O6: a word is one of the five tags, with its class, or none of them, with class 0. -/
theorem classifyIsExact : Obligations.ClassifyIsExact := by
  unfold Obligations.ClassifyIsExact
  simp only [← forall_and]
  intro v
  rcases command_cases v with ⟨hv, hc, -⟩ | ⟨hv, hc, -⟩ | ⟨hv, hc, -⟩ | ⟨hv, hc, -⟩ | ⟨hv, hc, -⟩ | ⟨hne, hc, -⟩
  case inr.inr.inr.inr.inr => simp [hc, hne, CmdClass.number]
  all_goals (rw [hc, hv]; decide)

/-! ### Encoding what was decoded: the bits an operation uses -/

/-- Masking a request word by a word of three fields masks it field by field. -/
theorem and_mkRequest (w : ReqWord) (op : BitVec 8) (a : Addr) (d : Word) :
    w &&& mkRequest op a d = mkRequest (reqOp w &&& op) (reqAddr w &&& a) (reqData w &&& d) := by
  have happend : mkRequest (reqOp w) (reqAddr w) (reqData w) &&& mkRequest op a d =
      (reqOp w ++ reqAddr w &&& op ++ a) ++ (reqData w &&& d) := BitVec.and_append
  rw [mkRequest_fields, BitVec.and_append] at happend
  exact happend

/-- The low byte of `data` is what `WRB` and `CRCB` use (30_encoding.md R75). -/
theorem reqData_and_byteMask (w : ReqWord) : reqData w &&& 0xFF#32 = (reqByte w).setWidth 32 := by
  have hmask : ∀ i (hi : i < 32), (0xFF#32)[i] = decide (i < 8) := by decide
  refine BitVec.eq_of_getLsbD_eq fun i hi => ?_
  simp [reqData, reqByte, hmask, hi, Bool.and_comm]

theorem and_opMask (w : ReqWord) : w &&& 0xFF000000000000#56 = mkRequest (reqOp w) 0#16 0#32 := by
  have hmask : 0xFF000000000000#56 = mkRequest (BitVec.allOnes 8) 0#16 0#32 := rfl
  rw [hmask, and_mkRequest, BitVec.and_allOnes, BitVec.and_zero, BitVec.and_zero]

theorem and_opByteMask (w : ReqWord) :
    w &&& 0xFF0000000000FF#56 = mkRequest (reqOp w) 0#16 ((reqByte w).setWidth 32) := by
  have hmask : 0xFF0000000000FF#56 = mkRequest (BitVec.allOnes 8) 0#16 0xFF#32 := rfl
  rw [hmask, and_mkRequest, reqData_and_byteMask, BitVec.and_allOnes, BitVec.and_zero]

theorem and_opAddrMask (w : ReqWord) : w &&& 0xFFFFFF00000000#56 = mkRequest (reqOp w) (reqAddr w) 0#32 := by
  have hmask : 0xFFFFFF00000000#56 = mkRequest (BitVec.allOnes 8) (BitVec.allOnes 16) 0#32 := rfl
  rw [hmask, and_mkRequest, BitVec.and_allOnes, BitVec.and_allOnes, BitVec.and_zero]

theorem and_opAddrByteMask (w : ReqWord) :
    w &&& 0xFFFFFF000000FF#56 = mkRequest (reqOp w) (reqAddr w) ((reqByte w).setWidth 32) := by
  have hmask : 0xFFFFFF000000FF#56 = mkRequest (BitVec.allOnes 8) (BitVec.allOnes 16) 0xFF#32 := rfl
  rw [hmask, and_mkRequest, reqData_and_byteMask, BitVec.and_allOnes, BitVec.and_allOnes]

theorem and_fullMask (w : ReqWord) : w &&& 0xFFFFFFFFFFFFFF#56 = mkRequest (reqOp w) (reqAddr w) (reqData w) := by
  rw [mkRequest_fields]
  exact BitVec.and_allOnes

/-- Settles O3: each row of the operation map keeps the fields its mask leaves. -/
theorem encodeKeepsUsedBits : Obligations.EncodeKeepsUsedBits := by
  unfold Obligations.EncodeKeepsUsedBits
  refine ⟨fun w i h => ?_, fun v i h => ?_⟩
  · rcases decodeRequest_cases w with ⟨hop, hd⟩ | ⟨hop, hd⟩ | ⟨hop, hd⟩ | ⟨hop, hd⟩ | ⟨hop, hd⟩ | ⟨hop, hd⟩ | ⟨hop, hd⟩ |
      ⟨hop, hd⟩ | ⟨hop, hd⟩ | ⟨hop, hd⟩ | ⟨hop, hd⟩ | ⟨hop, hd⟩ | ⟨hop, hd⟩ | hd
    all_goals cases hd.symm.trans h
    all_goals simp [hop, encode, and_opMask, and_opByteMask, and_opAddrMask, and_opAddrByteMask, and_fullMask]
  · rcases command_cases v with ⟨hv, -, hd⟩ | ⟨hv, -, hd⟩ | ⟨hv, -, hd⟩ | ⟨hv, -, hd⟩ | ⟨hv, -, hd⟩ | ⟨-, -, hd⟩
    all_goals cases hd.symm.trans h
    all_goals rw [hv, encode]

/-! ### Reserved codes -/

/-- The codes of the operation map (30_encoding.md R74). -/
def definedOps : List (BitVec 8) :=
  [0x00, 0x01, 0x10, 0x11, 0x12, 0x13, 0x20, 0x21, 0x22, 0x23, 0x30, 0x31, 0x32]

theorem decodes_iff_mem_definedOps (w : ReqWord) : (∃ i, decode (.request w) = .ok i) ↔ reqOp w ∈ definedOps := by
  constructor
  · rintro ⟨i, hi⟩
    rcases decodeRequest_cases w with ⟨hop, hd⟩ | ⟨hop, hd⟩ | ⟨hop, hd⟩ | ⟨hop, hd⟩ | ⟨hop, hd⟩ | ⟨hop, hd⟩ | ⟨hop, hd⟩ |
      ⟨hop, hd⟩ | ⟨hop, hd⟩ | ⟨hop, hd⟩ | ⟨hop, hd⟩ | ⟨hop, hd⟩ | ⟨hop, hd⟩ | hd
    all_goals cases hd.symm.trans hi
    all_goals simp [hop, definedOps]
  · intro hop
    simp only [definedOps, List.mem_cons, List.not_mem_nil, or_false] at hop
    rcases hop with hop | hop | hop | hop | hop | hop | hop | hop | hop | hop | hop | hop | hop <;>
      exact ⟨_, by rw [decode, decodeRequest, hop]; rfl⟩

/-- The defined codes are those between the four reserved ranges (30_encoding.md R76). -/
theorem mem_definedOps_iff (op : BitVec 8) : op ∈ definedOps ↔
    ¬((0x02 ≤ op.toNat ∧ op.toNat ≤ 0x0F) ∨ (0x14 ≤ op.toNat ∧ op.toNat ≤ 0x1F) ∨
      (0x24 ≤ op.toNat ∧ op.toNat ≤ 0x2F) ∨ (0x33 ≤ op.toNat ∧ op.toNat ≤ 0xFF)) := by
  simp only [definedOps, List.mem_cons, List.not_mem_nil, or_false]
  bv_omega

/-- The illegal request (30_encoding.md R76). -/
theorem step_reserved {s : State} {w : ReqWord} {rest : List Input} {r : Reject}
    (hs : s.inputs = .word (.request w) :: rest) (hd : decode (.request w) = .error r) :
    step s = .next ((({ s with inputs := rest } : State).setHerr true).respond .illegalOp 0) := by
  rw [step_word_error hs hd, decodeRequest_error hd, rejected, misuse_eq]

theorem herrRaised_setHerr (s : State) : HerrRaised (s.setHerr true).status s.status := by
  simp [HerrRaised]

/-- Settles O4: the defined codes are what the four ranges leave; a reserved code does what a misused request does. -/
theorem reservedCodesAreIllegal : Obligations.ReservedCodesAreIllegal := by
  unfold Obligations.ReservedCodesAreIllegal
  refine ⟨fun w => (decodes_iff_mem_definedOps w).trans (mem_definedOps_iff _), by decide +kernel, fun s w rest r hs hd => ?_⟩
  exact ⟨_, step_reserved hs hd, answered_respond _ _, herrRaised_setHerr s, regsSame_misuse _ _, bufSame_of_eq rfl rfl⟩

/-! ### One response per request -/

/-- A request is answered once, with datum 0 when its code is not `NONE` (30_encoding.md R73). -/
theorem ExecCase.answered_datum {s t : State} {i : Instr} (h : ExecCase s i t) (hi : i.isRequest = true) :
    ∃ c d, Answered s t c d ∧ (c ≠ .none → d = 0) := by
  cases h
  case name | size | hash | data | stop => simp [Instr.isRequest] at hi
  all_goals exact ⟨_, _, answered_respond _ _, by simp⟩

/-- Settles O10: a request that decodes is answered by its instruction, any other by the illegal request. -/
theorem oneResponsePerRequest : Obligations.OneResponsePerRequest := by
  unfold Obligations.OneResponsePerRequest
  refine ⟨fun s w rest hs => ?_, fun r => ⟨BitVec.extractLsb'_append_eq_left, BitVec.extractLsb'_append_eq_right⟩⟩
  rcases hd : decode (.request w) with r | i
  · exact ⟨_, .illegalOp, 0, step_reserved hs hd, answered_respond _ _, fun _ => rfl⟩
  · obtain ⟨t, ht, hc⟩ := exec_cases i { s with inputs := rest }
    obtain ⟨c, d, hans⟩ := hc.answered_datum (decodeRequest_isRequest hd)
    exact ⟨t, c, d, (step_word_ok hs hd).trans ht, hans⟩

/-! ### Header fields -/

theorem joinBE_eq_or (b0 b1 b2 b3 : Byte) : joinBE b0 b1 b2 b3 =
    (b0.setWidth 32 <<< 24) ||| (b1.setWidth 32 <<< 16) ||| (b2.setWidth 32 <<< 8) ||| b3.setWidth 32 :=
  (BitVec.setWidth_eq _).symm.trans BitVec.setWidth_append_append_append_eq_shiftLeft_setWidth_or

theorem joinBE_extract (v : Word) :
    joinBE (v.extractLsb' 24 8) (v.extractLsb' 16 8) (v.extractLsb' 8 8) (v.extractLsb' 0 8) = v := by
  have h16 : v.extractLsb' 24 8 ++ v.extractLsb' 16 8 = v.extractLsb' 16 16 :=
    BitVec.extractLsb'_append_extractLsb'_eq_extractLsb' rfl
  have h8 : v.extractLsb' 16 16 ++ v.extractLsb' 8 8 = v.extractLsb' 8 24 :=
    BitVec.extractLsb'_append_extractLsb'_eq_extractLsb' rfl
  rw [joinBE, h16, h8]
  exact BitVec.extractLsb'_append_extractLsb'

theorem bytesBE_joinBE (b0 b1 b2 b3 : Byte) : bytesBE (joinBE b0 b1 b2 b3) = [b0, b1, b2, b3] := by
  obtain ⟨h3, h2, h1, h0⟩ := joinBE_bytes b0 b1 b2 b3
  rw [bytesBE, h0, h1, h2, h3]

/-- `dec32` inverts `enc32` (30_encoding.md R63). -/
theorem dec32_enc32 (cfg : Config) (v : Word) : ∃ b0 b1 b2 b3, enc32 cfg v = [b0, b1, b2, b3] ∧ dec32 cfg b0 b1 b2 b3 = v := by
  unfold enc32 dec32
  cases cfg.endian with
  | be => exact ⟨_, _, _, _, rfl, joinBE_extract v⟩
  | le => exact ⟨_, _, _, _, rfl, joinBE_extract v⟩

/-- `enc32` inverts `dec32` (30_encoding.md R63). -/
theorem enc32_dec32 (cfg : Config) (b0 b1 b2 b3 : Byte) : enc32 cfg (dec32 cfg b0 b1 b2 b3) = [b0, b1, b2, b3] := by
  unfold enc32 dec32
  cases cfg.endian <;> simp [bytesBE_joinBE]

/-- Settles O5: under either order a field is the joined word of its bytes, read from one end or the other. -/
theorem fieldBytesInverse : Obligations.FieldBytesInverse := by
  unfold Obligations.FieldBytesInverse
  exact ⟨fun v => rfl, fun v => rfl, fun v => rfl, joinBE_eq_or, fun b0 b1 b2 b3 => joinBE_eq_or b3 b2 b1 b0, joinBE_eq_or,
    dec32_enc32, enc32_dec32, bytesBE_joinBE⟩

/-! ### Command tags run on their own (log 5) -/

/-- Run on its own a tag answers its class number (30_encoding.md R66). -/
theorem exec_tag {i : Instr} {k : BitVec 3}
    (h : (i, k) ∈ [(Instr.name, 1#3), (Instr.size, 2#3), (Instr.hash, 3#3), (Instr.data, 4#3), (Instr.stop, 5#3)]) (s : State) :
    ∃ c, exec i s = .next { s with classes := s.classes ++ [c] } ∧ c.number = k := by
  simp only [List.mem_cons, Prod.mk.injEq, List.not_mem_nil, or_false] at h
  rcases h with ⟨rfl, rfl⟩ | ⟨rfl, rfl⟩ | ⟨rfl, rfl⟩ | ⟨rfl, rfl⟩ | ⟨rfl, rfl⟩
  · exact ⟨.name, rfl, rfl⟩
  · exact ⟨.size, rfl, rfl⟩
  · exact ⟨.hash, rfl, rfl⟩
  · exact ⟨.data, rfl, rfl⟩
  · exact ⟨.stop, rfl, rfl⟩

/-- Settles O27: a tag extends the list of classes alone; the classifier and the decoder know the same five words. -/
theorem tagsAnswerTheirClass : Obligations.TagsAnswerTheirClass := by
  unfold Obligations.TagsAnswerTheirClass
  refine ⟨fun s i k h => ?_, fun v => ?_⟩
  · obtain ⟨c, hc, hk⟩ := exec_tag h s
    exact ⟨_, c, hc, rfl, hk, regsSameExcept_iff.2 (by simp), bufSame_of_eq rfl rfl, rfl, rfl, rfl⟩
  · rcases command_cases v with ⟨-, hc, hd⟩ | ⟨-, hc, hd⟩ | ⟨-, hc, hd⟩ | ⟨-, hc, hd⟩ | ⟨-, hc, hd⟩ | ⟨-, hc, hd⟩
    all_goals rw [hc, hd]

/-! ### The checksum of a byte sequence, by requests -/

theorem runProgram_nil (s : State) : runProgram [] s = .next { s with inputs := [] } := rfl

/-- One request of a program: what it leaves, the rest of the program starts from. -/
theorem runProgram_cons {i : Instr} {p : List Instr} {s t : State}
    (h : exec i { s with inputs := programInputs p } = .next t) : runProgram (i :: p) s = runProgram p t := by
  have hinputs : t.inputs = programInputs p := (exec_inv h).channel_kept.1
  have hstep : step { s with inputs := programInputs (i :: p) } = .next t := (step_word_ok rfl (decode_encode i)).trans h
  rw [runProgram, List.length_cons, run_succ_next _ hstep, runProgram, ← hinputs]

/-- `CRCB` for each byte of a sequence and `CRCF`, from any raw CRC (40_crc.md R92, R102, R103). -/
theorem runProgram_crcb_crcf (bytes : List Byte) (s : State) :
    runProgram (bytes.map Instr.crcb ++ [.crcf]) s = .next { s with
      crc := crcFold Config.hw s.crc bytes
      inputs := []
      responses := s.responses ++ (List.replicate bytes.length ⟨.none, 0⟩ ++
        [⟨.none, crcFold Config.hw s.crc bytes ^^^ Config.hw.crcXorOut⟩]) } := by
  induction bytes generalizing s with
  | nil => exact (runProgram_cons (exec_crcf _)).trans (runProgram_nil _)
  | cons b bytes ih =>
    rw [List.map_cons, List.cons_append, runProgram_cons (exec_crcb b _), ih]
    simp [State.setCrc, State.respond, crcFold, List.replicate_succ]

/-- Settles O42: `CRCI` starts the fold of `crc_byte` that the other requests carry out. -/
theorem crcsProgramComputesCrc32 : Obligations.CrcsProgramComputesCrc32 := by
  unfold Obligations.CrcsProgramComputesCrc32
  intro bytes s
  have hrun := (runProgram_cons (s := s) (exec_crci _)).trans (runProgram_crcb_crcf bytes _)
  refine ⟨_, hrun, ?_, rfl, regsSameExcept_iff.2 (by simp), bufSame_of_eq rfl rfl, rfl⟩
  simp [crc32, crcRaw, List.replicate_succ]

end Sys2Proof.Machine

/-! ## Proofs of the family `40_crc.md`: the algebra of the CRC, its equivalent forms, what it detects, the CRC unit -/

namespace Sys2Proof.Machine

/-! ### Bit steps (40_crc.md R91, R94) -/

theorem crcBit_of_bit0_false {cfg : Config} {c : Word} (h : c.getLsbD 0 = false) : crcBit cfg c = c >>> 1 :=
  if_neg (Bool.eq_false_iff.1 h)

theorem crcBit_of_bit0_true {cfg : Config} {c : Word} (h : c.getLsbD 0 = true) :
    crcBit cfg c = (c >>> 1) ^^^ cfg.crcPolyR :=
  if_pos h

/-- A bit step is linear: the polynomial cancels where it is XORed in on both sides. -/
theorem crcBit_xor (cfg : Config) (c d : Word) : crcBit cfg (c ^^^ d) = crcBit cfg c ^^^ crcBit cfg d := by
  have hxor : (c ^^^ d).getLsbD 0 = (c.getLsbD 0 ^^ d.getLsbD 0) := BitVec.getLsbD_xor
  rcases hc : c.getLsbD 0 <;> rcases hd : d.getLsbD 0 <;> rw [hc, hd] at hxor
  · rw [crcBit_of_bit0_false hc, crcBit_of_bit0_false hd, crcBit_of_bit0_false hxor, BitVec.ushiftRight_xor_distrib]
  · rw [crcBit_of_bit0_false hc, crcBit_of_bit0_true hd, crcBit_of_bit0_true hxor, BitVec.ushiftRight_xor_distrib,
      BitVec.xor_assoc]
  · rw [crcBit_of_bit0_true hc, crcBit_of_bit0_false hd, crcBit_of_bit0_true hxor, BitVec.ushiftRight_xor_distrib]
    ac_rfl
  · rw [crcBit_of_bit0_true hc, crcBit_of_bit0_true hd, crcBit_of_bit0_false hxor, BitVec.ushiftRight_xor_distrib]
    calc c >>> 1 ^^^ d >>> 1 = (c >>> 1 ^^^ d >>> 1) ^^^ (cfg.crcPolyR ^^^ cfg.crcPolyR) := by
          rw [BitVec.xor_self, BitVec.xor_zero]
      _ = (c >>> 1 ^^^ cfg.crcPolyR) ^^^ (d >>> 1 ^^^ cfg.crcPolyR) := by ac_rfl

theorem crcBits_xor (cfg : Config) (n : Nat) (c d : Word) :
    crcBits cfg n (c ^^^ d) = crcBits cfg n c ^^^ crcBits cfg n d := by
  induction n generalizing c d with
  | zero => rfl
  | succ n ih => rw [crcBits, crcBit_xor, ih, crcBits, crcBits]

/-- Bits of 0 at the bottom are shifted out and nothing else happens. -/
theorem crcBits_of_low_zero {cfg : Config} {n : Nat} {c : Word} (h : ∀ i < n, c.getLsbD i = false) :
    crcBits cfg n c = c >>> n := by
  induction n generalizing c with
  | zero => exact (BitVec.ushiftRight_zero c).symm
  | succ n ih =>
    rw [crcBits, crcBit_of_bit0_false (h 0 (by omega)), ih fun i hi => ?_, ← BitVec.shiftRight_add, Nat.add_comm]
    simpa [Nat.add_comm] using h (i + 1) (by omega)

theorem crcBits_zeroWord (cfg : Config) (n : Nat) : crcBits cfg n 0#32 = 0#32 := by
  rw [crcBits_of_low_zero fun i _ => BitVec.getLsbD_zero, BitVec.zero_ushiftRight]

section Bijective
variable {cfg : Config} (hpoly : cfg.crcPolyR.getLsbD 31 = true)
include hpoly

/-- Bit 31 after a bit step tells whether the polynomial was XORed in. -/
theorem crcBit_bit31 (c : Word) : (crcBit cfg c).getLsbD 31 = c.getLsbD 0 := by
  rcases hc : c.getLsbD 0
  · simp [crcBit_of_bit0_false hc]
  · simp [crcBit_of_bit0_true hc, hpoly]

/-- A linear map is injective if its kernel is 0: bit 31 gives back bit 0, and the shift the other bits. -/
theorem crcBit_injective : Function.Injective (crcBit cfg) := by
  intro c d h
  have hker : crcBit cfg (c ^^^ d) = 0#32 := by rw [crcBit_xor, h, BitVec.xor_self]
  have hbit0 : (c ^^^ d).getLsbD 0 = false := by rw [← crcBit_bit31 hpoly, hker]; rfl
  rw [crcBit_of_bit0_false hbit0] at hker
  refine BitVec.xor_eq_zero_iff.1 (BitVec.eq_of_getLsbD_eq fun i _ => ?_)
  cases i with
  | zero => simpa using hbit0
  | succ i => simpa [Nat.add_comm] using congrArg (·.getLsbD i) hker

theorem crcBits_injective (n : Nat) : Function.Injective (crcBits cfg n) := by
  induction n with
  | zero => exact fun _ _ h => h
  | succ n ih => exact ih.comp (crcBit_injective hpoly)

theorem crcByte_injective (b : Byte) : Function.Injective (crcByte cfg · b) :=
  fun _ _ h => (BitVec.xor_left_inj _).1 (crcBits_injective hpoly 8 h)

end Bijective

/-! ### Bytes (40_crc.md R92, R94) -/

theorem crcByte_xor (cfg : Config) (c c' : Word) (b b' : Byte) :
    crcByte cfg (c ^^^ c') (b ^^^ b') = crcByte cfg c b ^^^ crcByte cfg c' b' := by
  simp only [crcByte, ← crcBits_xor, BitVec.setWidth_xor]
  ac_rfl

theorem crcByte_zero (cfg : Config) : crcByte cfg 0 0 = 0 := crcBits_zeroWord cfg 8

/-- The computation can be split at any byte and resumed. -/
theorem crcFold_append (cfg : Config) (c : Word) (s t : List Byte) :
    crcFold cfg c (s ++ t) = crcFold cfg (crcFold cfg c s) t := List.foldl_append

theorem crcFold_xor (cfg : Config) {s s' : List Byte} (h : s.length = s'.length) (c c' : Word) :
    crcFold cfg (c ^^^ c') (List.zipWith (· ^^^ ·) s s') = crcFold cfg c s ^^^ crcFold cfg c' s' := by
  induction s generalizing s' c c' with
  | nil =>
    obtain rfl := List.eq_nil_of_length_eq_zero h.symm
    rfl
  | cons b s ih =>
    cases s' with
    | nil => simp at h
    | cons b' s' => simpa [crcFold, crcByte_xor] using ih (by simpa using h) (crcByte cfg c b) (crcByte cfg c' b')

/-- Settles O12: linearity step by step; `crc_byte` of a fixed byte is injective, so on a finite type surjective too. -/
theorem crcByteLinearBijective : Obligations.CrcByteLinearBijective := by
  unfold Obligations.CrcByteLinearBijective
  refine ⟨crcByte_xor, crcByte_zero, fun _ => crcBit_bit31, fun cfg hpoly b => ?_, by decide, fun cfg s e h => ?_⟩
  · have hinj := crcByte_injective hpoly b
    exact ⟨fun c c' h => hinj h, Finite.surjective_of_injective hinj⟩
  · have hfold := crcFold_xor cfg h cfg.crcInit 0#32
    rw [BitVec.xor_zero] at hfold
    rw [crcRaw, crcRaw, hfold, ← BitVec.xor_assoc, BitVec.xor_self, BitVec.zero_xor]
    rfl

/-! ### The form by table (40_crc.md R95) -/

/-- The printed table, computed. -/
theorem crcTable_eq : crcTable = List.ofFn fun i : Fin 256 => crcByte Config.hw 0 (BitVec.ofFin i) := by decide +kernel

theorem crcTable_getD (i : Byte) : crcTable.getD i.toNat 0 = crcByte Config.hw 0 i := by
  have hi : i.toNat < 256 := i.isLt
  rw [crcTable_eq, List.getD_eq_getElem _ _ (by rwa [List.length_ofFn]), List.getElem_ofFn]
  rfl

theorem setWidth_byte_shiftRight (b : Byte) : b.setWidth 32 >>> 8 = 0#32 := by
  refine BitVec.eq_of_getLsbD_eq fun i _ => ?_
  simp

/-- Eight bit steps: the low byte goes through the table, the others are shifted. -/
theorem crcBits_eight (cfg : Config) (x : Word) :
    crcBits cfg 8 x = (x >>> 8) ^^^ crcByte cfg 0#32 (x.extractLsb' 0 8) := by
  have hlow (i : Nat) (hi : i < 8) : (x ^^^ (x.extractLsb' 0 8).setWidth 32).getLsbD i = false := by
    simp [hi, show i < 32 by omega]
  have hhigh := crcBits_of_low_zero (cfg := cfg) hlow
  rw [crcBits_xor, BitVec.ushiftRight_xor_distrib, setWidth_byte_shiftRight, BitVec.xor_zero] at hhigh
  rw [← hhigh, crcByte, BitVec.zero_xor, BitVec.xor_assoc, BitVec.xor_self, BitVec.xor_zero]

theorem crcByteByTable_eq (c : Word) (b : Byte) : crcByteByTable c b = crcByte Config.hw c b := by
  have hshift : (c ^^^ b.setWidth 32) >>> 8 = c >>> 8 := by
    rw [BitVec.ushiftRight_xor_distrib, setWidth_byte_shiftRight, BitVec.xor_zero]
  rw [crcByteByTable, crcTable_getD, ← hshift]
  exact (crcBits_eight Config.hw _).symm

/-- Settles O13: the table by evaluation, the form by table from linearity. -/
theorem crcTableForm : Obligations.CrcTableForm :=
  ⟨by rw [crcTable_eq, List.length_ofFn], crcTable_getD, crcByteByTable_eq⟩

/-! ### The form with the most significant bit first (40_crc.md R96) -/

theorem reverse_xor (c d : Word) : (c ^^^ d).reverse = c.reverse ^^^ d.reverse := by
  refine BitVec.eq_of_getLsbD_eq fun i _ => ?_
  simp [BitVec.getLsbD_reverse]

/-- A left shift seen in the mirror. -/
theorem reverse_shiftLeft_one (c : Word) : (c <<< 1).reverse = c.reverse >>> 1 := by
  refine BitVec.eq_of_getLsbD_eq fun i hi => ?_
  simp [BitVec.getLsbD_reverse, BitVec.getMsbD_shiftLeft, Nat.add_comm]

/-- A byte, mirrored into the top byte of the word. -/
theorem reverse_topByte (b : Byte) : (b.reverse.setWidth 32 <<< 24).reverse = b.setWidth 32 := by
  refine BitVec.eq_of_getLsbD_eq fun i hi => ?_
  rw [BitVec.getLsbD_reverse, BitVec.getMsbD_shiftLeft, BitVec.getMsbD_eq_getLsbD, BitVec.getLsbD_setWidth,
    BitVec.getLsbD_setWidth, BitVec.getLsbD_reverse, BitVec.getMsbD_eq_getLsbD]
  by_cases h : i < 8
  · simp [h, hi, show i + 24 < 32 by omega, show 7 - i < 32 by omega, show 7 - i < 8 by omega, show 7 - (7 - i) = i by omega]
  · simp [show ¬i + 24 < 32 by omega, BitVec.getLsbD_of_ge b i (by omega)]

theorem reverse_crcMsbBit (c : Word) : (crcMsbBit c).reverse = crcBit Config.hw c.reverse := by
  have hbit : c.reverse.getLsbD 0 = c.getLsbD 31 := BitVec.getLsbD_reverse
  have hpoly : (0x04C11DB7#32).reverse = Config.hw.crcPolyR := by decide +kernel
  rcases hc : c.getLsbD 31
  · rw [crcBit_of_bit0_false (hbit.trans hc), ← reverse_shiftLeft_one, crcMsbBit, if_neg (Bool.eq_false_iff.1 hc)]
  · rw [crcBit_of_bit0_true (hbit.trans hc), ← reverse_shiftLeft_one, ← hpoly, ← reverse_xor, crcMsbBit, if_pos hc]

theorem reverse_crcMsbBits (n : Nat) (c : Word) : (crcMsbBits n c).reverse = crcBits Config.hw n c.reverse := by
  induction n generalizing c with
  | zero => rfl
  | succ n ih => rw [crcMsbBits, ih, reverse_crcMsbBit, crcBits]

theorem reverse_crcMsbByte (c : Word) (b : Byte) : (crcMsbByte c b).reverse = crcByte Config.hw c.reverse b := by
  rw [crcMsbByte, reverse_crcMsbBits, reverse_xor, reverse_topByte, crcByte]

theorem reverse_foldl_crcMsbByte (bytes : List Byte) (c : Word) :
    (bytes.foldl crcMsbByte c).reverse = crcFold Config.hw c.reverse bytes := by
  induction bytes generalizing c with
  | nil => rfl
  | cons b bytes ih => rw [List.foldl_cons, ih, reverse_crcMsbByte]; rfl

/-- Settles O14: every step is the mirror image of a step of R91. -/
theorem crcMsbFirstForm : Obligations.CrcMsbFirstForm := by
  intro bytes
  have hinit : (0xFFFFFFFF#32).reverse = Config.hw.crcInit := by decide +kernel
  rw [crc32Msb, reverse_foldl_crcMsbByte, hinit, crc32, crcRaw, hw_crcXorOut]

/-! ### The CRC bit by bit (40_crc.md R97) -/

/-- Absorbing the bits `f 0` to `f (n - 1)`, one bit step each. -/
def absorbBits (cfg : Config) : (Nat → Bool) → Nat → Word → Word
  | _, 0, c => c
  | f, n + 1, c => absorbBits cfg (fun j => f (j + 1)) n (crcBit cfg (c ^^^ (BitVec.ofBool (f 0)).setWidth 32))

/-- Of a word XORed in before a bit step, bit 0 is met by the step and the others by the shift alone. -/
theorem crcBit_xor_split (cfg : Config) (c w : Word) :
    crcBit cfg (c ^^^ w) = crcBit cfg (c ^^^ (BitVec.ofBool (w.getLsbD 0)).setWidth 32) ^^^ (w >>> 1) := by
  have hbit : (c ^^^ w).getLsbD 0 = (c ^^^ (BitVec.ofBool (w.getLsbD 0)).setWidth 32).getLsbD 0 := by simp
  have hshift : (c ^^^ w) >>> 1 = (c ^^^ (BitVec.ofBool (w.getLsbD 0)).setWidth 32) >>> 1 ^^^ (w >>> 1) := by
    refine BitVec.eq_of_getLsbD_eq fun i _ => ?_
    simp
  rw [crcBit, crcBit, hbit, hshift]
  split
  · ac_rfl
  · rfl

/-- Up to 32 bits can be XORed into the word at once, before the bit steps. -/
theorem absorbBits_eq_crcBits {cfg : Config} {f : Nat → Bool} {n : Nat} {w : Word}
    (h : ∀ j, w.getLsbD j = (decide (j < n) && f j)) (c : Word) : absorbBits cfg f n c = crcBits cfg n (c ^^^ w) := by
  induction n generalizing f w c with
  | zero =>
    have hw : w = 0#32 := BitVec.eq_of_getLsbD_eq fun j _ => by simp [h]
    rw [hw, BitVec.xor_zero]
    rfl
  | succ n ih =>
    have hrest (j : Nat) : (w >>> 1).getLsbD j = (decide (j < n) && f (j + 1)) := by simp [h, Nat.add_comm 1]
    have hbit : w.getLsbD 0 = f 0 := by rw [h, decide_eq_true (by omega), Bool.true_and]
    rw [absorbBits, ih hrest, crcBits, crcBit_xor_split cfg c w, hbit]

theorem absorbBits_add (cfg : Config) (f : Nat → Bool) (m n : Nat) (c : Word) :
    absorbBits cfg f (m + n) c = absorbBits cfg (fun j => f (m + j)) n (absorbBits cfg f m c) := by
  induction m generalizing f c with
  | zero => simp [absorbBits]
  | succ m ih => simp only [Nat.add_right_comm m 1, absorbBits, ih]

/-- A byte is absorbed from bit 0 up. -/
theorem absorbBits_byte {f : Nat → Bool} {b : Byte} (h : ∀ j < 8, f j = b.getLsbD j) (cfg : Config) (c : Word) :
    absorbBits cfg f 8 c = crcByte cfg c b := by
  refine absorbBits_eq_crcBits (fun j => ?_) c
  by_cases hj : j < 8
  · simp [hj, h, show j < 32 by omega]
  · simp [hj, BitVec.getLsbD_of_ge b j (by omega)]

/-- The bits of the first byte come first. -/
theorem absorbedBit_cons (b : Byte) (bytes : List Byte) (j : Nat) :
    absorbedBit (b :: bytes) j = if j < 8 then b.getLsbD j else absorbedBit bytes (j - 8) := by
  by_cases hj : j < 8
  · simp [absorbedBit, hj, Nat.div_eq_of_lt, Nat.mod_eq_of_lt]
  · obtain ⟨i, rfl⟩ := Nat.exists_eq_add_of_le (Nat.le_of_not_lt hj)
    simp [absorbedBit, Nat.add_div_left]

/-- The CRC of a byte sequence, absorbed bit by bit. -/
theorem crcFold_eq_absorbBits (cfg : Config) (bytes : List Byte) (c : Word) :
    crcFold cfg c bytes = absorbBits cfg (absorbedBit bytes) (8 * bytes.length) c := by
  induction bytes generalizing c with
  | nil => rfl
  | cons b bytes ih =>
    have hrest (j : Nat) : absorbedBit (b :: bytes) (8 + j) = absorbedBit bytes j := by simp [absorbedBit_cons]
    rw [List.length_cons, Nat.mul_add, Nat.add_comm, absorbBits_add, funext hrest,
      absorbBits_byte fun j hj => (absorbedBit_cons b bytes j).trans (if_pos hj)]
    exact ih (crcByte cfg c b)

/-! ### Burst errors (40_crc.md R97) -/

theorem exists_word_of_bits {f : Nat → Bool} (h : ∀ j, 32 ≤ j → f j = false) :
    ∃ w : Word, ∀ j, w.getLsbD j = f j := by
  refine ⟨BitVec.ofFnLE fun i => f i, fun j => ?_⟩
  rw [BitVec.getLsbD_ofFnLE]
  split
  · rfl
  · rw [h j (by omega)]

/-- Absorbed from 0, a pattern inside a window of 32 bits gives 0 only if it has no bit set: before the window the word stays 0,
the window is XORed in as one word, and the bit steps are injective. -/
theorem bits_false_of_absorbBits_zero {cfg : Config} (hpoly : cfg.crcPolyR.getLsbD 31 = true) {f : Nat → Bool} {k n : Nat}
    (hwin : ∀ j, j < k ∨ k + 32 ≤ j → f j = false) (h : absorbBits cfg f n 0#32 = 0#32) : ∀ j < n, f j = false := by
  induction k generalizing f n with
  | zero =>
    obtain ⟨w, hw⟩ := exists_word_of_bits (f := fun j => decide (j < n) && f j) fun j hj => by simp [hwin j (by omega)]
    rw [absorbBits_eq_crcBits hw, BitVec.zero_xor] at h
    obtain rfl : w = 0#32 := crcBits_injective hpoly n (h.trans (crcBits_zeroWord cfg n).symm)
    exact fun j hj => by simpa [hj] using (hw j).symm
  | succ k ih =>
    have hzero : f 0 = false := hwin 0 (by omega)
    cases n with
    | zero => exact fun j hj => absurd hj (by omega)
    | succ n =>
      have hstep : crcBit cfg 0#32 = 0#32 := crcBits_zeroWord cfg 1
      simp only [absorbBits, hzero, BitVec.zero_xor] at h
      have hrest := ih (f := fun j => f (j + 1)) (fun j hj => hwin (j + 1) (by omega)) (hstep ▸ h)
      rintro (_ | j) hj
      · exact hzero
      · exact hrest j (by omega)

theorem absorbedBit_zipWith_xor {s s' : List Byte} (h : s.length = s'.length) (j : Nat) :
    absorbedBit (List.zipWith (· ^^^ ·) s s') j = (absorbedBit s j ^^ absorbedBit s' j) := by
  by_cases hj : j / 8 < s.length
  · simp [absorbedBit, hj, h ▸ hj]
  · simp [absorbedBit, hj, h ▸ hj]

/-- The absorbed bits are all there is to a byte sequence of known length. -/
theorem eq_of_absorbedBit_eq {s s' : List Byte} (hlen : s.length = s'.length)
    (h : ∀ j < 8 * s.length, absorbedBit s j = absorbedBit s' j) : s = s' := by
  refine List.ext_getElem hlen fun i hi hi' => BitVec.eq_of_getLsbD_eq fun t ht => ?_
  have hbit := h (8 * i + t) (by omega)
  rw [absorbedBit, absorbedBit, show (8 * i + t) / 8 = i by omega, show (8 * i + t) % 8 = t by omega,
    List.getD_eq_getElem _ _ hi, List.getD_eq_getElem _ _ hi'] at hbit
  exact hbit

/-- Settles O15: equal checksums mean that the difference, absorbed from 0, gives 0. -/
theorem burstsOf32BitsDetected : Obligations.BurstsOf32BitsDetected := by
  unfold Obligations.BurstsOf32BitsDetected
  refine ⟨by decide, fun cfg s s' k hpoly hlen hne hwin hcrc => hne (eq_of_absorbedBit_eq hlen fun j hj => ?_)⟩
  have hraw : crcFold cfg cfg.crcInit s = crcFold cfg cfg.crcInit s' := (BitVec.xor_left_inj _).1 hcrc
  have hdiff := crcFold_xor cfg hlen cfg.crcInit cfg.crcInit
  rw [hraw, BitVec.xor_self, BitVec.xor_self, crcFold_eq_absorbBits] at hdiff
  have hfalse := bits_false_of_absorbBits_zero hpoly
    (fun i hi => by rw [absorbedBit_zipWith_xor hlen, hwin i hi, Bool.xor_self]) hdiff j (by simpa [← hlen] using hj)
  rwa [absorbedBit_zipWith_xor hlen, bne_eq_false_iff_eq] at hfalse

/-! ### The residue (40_crc.md R105) -/

theorem absorbedBit_four (b0 b1 b2 b3 : Byte) {j : Nat} (hj : j < 32) :
    absorbedBit [b0, b1, b2, b3] j = (joinBE b3 b2 b1 b0).getLsbD j := by
  simp only [absorbedBit_cons, joinBE, BitVec.getLsbD_append, show j - 8 - 8 - 8 < 8 by omega, if_true]

/-- Four bytes are absorbed as the word they are the little-endian bytes of. -/
theorem crcFold_four (cfg : Config) (c : Word) (b0 b1 b2 b3 : Byte) :
    crcFold cfg c [b0, b1, b2, b3] = crcBits cfg 32 (c ^^^ joinBE b3 b2 b1 b0) := by
  refine (crcFold_eq_absorbBits _ _ _).trans (absorbBits_eq_crcBits (n := 32) (fun j => ?_) c)
  by_cases hj : j < 32
  · rw [absorbedBit_four _ _ _ _ hj, decide_eq_true hj, Bool.true_and]
  · rw [decide_eq_false hj, Bool.false_and, BitVec.getLsbD_of_ge _ _ (by omega)]

/-- Of a little-endian frame that verifies, the checksum and the raw CRC it is absorbed onto cancel down to `CRC_XOROUT`. -/
theorem residue_hwLittle {s : State} (h : FrameVerifies Config.hwLittle s) :
    crcRaw Config.hwLittle (s.covered Config.hwLittle ++ s.memRead 0 4) = 0xDEBB20E3#32 := by
  have hsum : joinBE (s.bufRead 3) (s.bufRead 2) (s.bufRead 1) (s.bufRead 0) =
      crcRaw Config.hwLittle (s.covered Config.hwLittle) ^^^ 0xFFFFFFFF#32 := h.symm
  have hresidue : crcBits Config.hwLittle 32 0xFFFFFFFF#32 = 0xDEBB20E3#32 := by decide +kernel
  rw [crcRaw, crcFold_append, ← crcRaw, memRead_four, crcFold_four, hsum, ← BitVec.xor_assoc,
    BitVec.xor_self, BitVec.zero_xor, hresidue]

/-- The state after reset with a frame in the buffer and its length in `LEN`. -/
def holdingFrame (f : List Byte) : State :=
  { State.reset with buf := (List.range f.length).zip f, len := BitVec.ofNat 32 f.length }

/-- A `STOP` frame with sequence number 6 (V-E1 of 95_test_vectors.md). -/
def stopFrame6 : List Byte :=
  [0xC2, 0xE1, 0xF1, 0x16, 0x00, 0x00, 0x00, 0x06, 0x53, 0x54, 0x4F, 0x50, 0x00, 0x00, 0x00, 0x00]

/-- A `STOP` frame with sequence number 7531: its checksum bytes are a palindrome, so it has the little-endian residue. -/
def stopFrame7531 : List Byte :=
  [0xBD, 0x9D, 0x9D, 0xBD, 0x00, 0x00, 0x1D, 0x6B, 0x53, 0x54, 0x4F, 0x50, 0x00, 0x00, 0x00, 0x00]

/-- Settles O16: the little-endian residue; two verifying big-endian frames with different residues. -/
theorem littleEndianResidue : Obligations.LittleEndianResidue := by
  unfold Obligations.LittleEndianResidue
  refine ⟨fun s => residue_hwLittle, fun ⟨c, hc⟩ => ?_⟩
  have h6 := hc (holdingFrame stopFrame6) (by unfold LengthLegal; decide) (by unfold FrameVerifies; decide +kernel)
  have h7531 := hc (holdingFrame stopFrame7531) (by unfold LengthLegal; decide) (by unfold FrameVerifies; decide +kernel)
  exact absurd (h6.trans h7531.symm) (by decide +kernel)

/-! ### The CRC unit (40_crc.md R101 to R104) -/

theorem append_eq_mkRequest (op : BitVec 8) (a : Addr) (d : Word) : op ++ a ++ d = mkRequest op a d := rfl

/-- Settles O17: the rows of the three codes, and what each operation writes. -/
theorem crcStreamOperations : Obligations.CrcStreamOperations := by
  unfold Obligations.CrcStreamOperations
  refine ⟨fun a d => ?_, fun s => ⟨?_, fun b => ?_, ?_⟩⟩
  · simp [append_eq_mkRequest, decode, decodeRequest]
  · exact ⟨_, exec_crci s, rfl, regsSameExcept_iff.2 (by simp), bufSame_of_eq rfl rfl, answered_respond _ _⟩
  · exact ⟨_, exec_crcb b s, rfl, regsSameExcept_iff.2 (by simp), bufSame_of_eq rfl rfl, answered_respond _ _⟩
  · exact ⟨_, exec_crcf s, regsSameExcept_iff.2 (by simp), bufSame_of_eq rfl rfl, answered_respond _ _⟩

/-- A verdict writes `ERR` and `CRC_OK` and keeps the rest of `STATUS`. -/
theorem statusHas_setVerdict (s : State) (c : ResultCode) (ok : Bool) :
    StatusHas (s.setVerdict c ok).status s.status c ok (statusClass s.status) (statusHerr s.status) := by
  simp [StatusHas]

/-- Settles O18: the three paths of the length check. -/
theorem crcpRule : Obligations.CrcpRule := by
  unfold Obligations.CrcpRule
  refine ⟨fun a d => ?_, fun s => ⟨fun h => ?_, fun h => ?_, fun h => ?_⟩⟩
  · simp [append_eq_mkRequest, decode, decodeRequest]
  · exact ⟨_, exec_crcp_legal h, rfl, statusHas_setVerdict (s.absorbFrame Config.hw) _ _, regsSameExcept_iff.2 (by simp),
      bufSame_of_eq rfl rfl, answered_respond _ _⟩
  · exact ⟨_, exec_crcp_short h, statusHas_setVerdict s _ _, regsSameExcept_iff.2 (by simp), bufSame_of_eq rfl rfl,
      answered_respond _ _⟩
  · exact ⟨_, exec_crcp_over h, statusHas_setVerdict s _ _, regsSameExcept_iff.2 (by simp), bufSame_of_eq rfl rfl,
      answered_respond _ _⟩

end Sys2Proof.Machine

/-! ## Proofs of the family `41_codec.md`: what ENC, DEC and VFY do, round trips, what VFY catches, sending and receiving -/

namespace Sys2Proof.Machine

/-! ### The header fields as bytes and as words (30_encoding.md R62 to R64) -/

theorem BufSame.memRead {s t : State} (h : BufSame s t) (a n : Nat) : t.memRead a n = s.memRead a n :=
  memRead_congr fun k _ _ => h k

@[simp] theorem memRead_respond (s : State) (c : ResultCode) (d : Word) (a n : Nat) :
    (s.respond c d).memRead a n = s.memRead a n := rfl
@[simp] theorem memRead_setVerdict (s : State) (c : ResultCode) (b : Bool) (a n : Nat) :
    (s.setVerdict c b).memRead a n = s.memRead a n := rfl
@[simp] theorem memRead_setClass (s : State) (k : CmdClass) (a n : Nat) : (s.setClass k).memRead a n = s.memRead a n := rfl

/-- Equal sequences are equal byte by byte. -/
theorem bufRead_eq_of_memRead_eq {s t : State} {a n k : Nat} (h : t.memRead a n = s.memRead a n) (ha : a ≤ k)
    (hk : k < a + n) : t.bufRead k = s.bufRead k := by
  obtain ⟨i, rfl⟩ := Nat.exists_eq_add_of_le ha
  have hbyte := congrArg (·[i]?) h
  simpa [State.memRead, show i < n by omega] using hbyte

theorem memRead_eq_enc32_readField (cfg : Config) (s : State) (a : Nat) :
    s.memRead a 4 = enc32 cfg (s.readField cfg a) := by
  rw [memRead_four, State.readField, enc32_dec32]

theorem enc32_injective (cfg : Config) : Function.Injective (enc32 cfg) := by
  intro v w h
  obtain ⟨v0, v1, v2, v3, hv, rfl⟩ := dec32_enc32 cfg v
  obtain ⟨w0, w1, w2, w3, hw, rfl⟩ := dec32_enc32 cfg w
  rw [hv, hw] at h
  cases h
  rfl

/-- A field reads as `v` exactly if its bytes are those of `v`. -/
theorem readField_eq_iff {cfg : Config} {s : State} {a : Nat} {v : Word} :
    s.readField cfg a = v ↔ s.memRead a 4 = enc32 cfg v := by
  rw [memRead_eq_enc32_readField cfg, (enc32_injective cfg).eq_iff]

/-- The command word is read big-endian under either byte order, as this hardware reads every field. -/
theorem readTag_eq_readField (s : State) (a : Nat) : s.readTag a = s.readField Config.hw a := rfl

theorem readTag_eq_iff {s : State} {a : Nat} {v : Word} : s.readTag a = v ↔ s.memRead a 4 = tagbytes v :=
  readField_eq_iff (cfg := Config.hw)

theorem memRead_eq_tagbytes_readTag (s : State) (a : Nat) : s.memRead a 4 = tagbytes (s.readTag a) := readTag_eq_iff.1 rfl

/-- A length fits in its field. -/
theorem toNat_ofNat_of_lt {w n : Nat} (h : n < 2 ^ w) : (BitVec.ofNat w n).toNat = n := by
  rw [BitVec.toNat_ofNat, Nat.mod_eq_of_lt h]

/-! ### `ENC` (41_codec.md R113) -/

/-- A verdict and a class write `ERR`, `CRC_OK` and `CLASS` and keep the rest of `STATUS`. -/
theorem statusHas_setClass (s : State) (c : ResultCode) (ok : Bool) (k : CmdClass) :
    StatusHas ((s.setVerdict c ok).setClass k).status s.status c ok k.number (statusHerr s.status) := by
  simp [StatusHas]

/-- A failing `ENC` or `DEC` writes `STATUS` alone, with class 0 (60_exceptions.md R155). -/
theorem failure_writes_status_alone {i : Instr} {s : State} {c : ResultCode}
    (h : exec i s = .next (((s.setVerdict c false).setClass .unknown).respond c 0)) :
    ∃ t, exec i s = .next t ∧ RegsSameExcept [.status] s t ∧ BufSame s t ∧
      StatusHas t.status s.status c false 0 (statusHerr s.status) ∧ Answered s t c 0 :=
  ⟨_, h, regsSameExcept_iff.2 (by simp), fun _ => by simp, statusHas_setClass s c false .unknown,
    answered_respond _ _⟩

/-- `Encoded s t`: the block state `t` is what a successful `ENC` leaves of `s` (R113). -/
structure Encoded (s t : State) : Prop where
  len : t.len.toNat = 16 + s.plen.toNat
  crc : t.crc = crcRaw Config.hw (t.memRead 4 (12 + s.plen.toNat))
  cks : t.cks = t.crc ^^^ 0xFFFFFFFF#32
  checksumBytes : t.memRead 0 4 = enc32 Config.hw t.cks
  sequenceBytes : t.memRead 4 4 = enc32 Config.hw s.seq
  commandBytes : t.memRead 8 4 = tagbytes s.cmd
  offsetBytes : t.memRead 12 4 = enc32 Config.hw s.off
  payload : ∀ a, 16 ≤ a → t.bufRead a = s.bufRead a
  regs : RegsSameExcept [.cks, .len, .crc, .status] s t
  status : StatusHas t.status s.status .none false (classify Config.hw s.cmd).number (statusHerr s.status)

theorem exec_enc_encoded {s : State} (h : 16 + s.plen.toNat ≤ 1024) :
    ∃ t, exec .enc s = .next t ∧ Answered s t .none t.cks ∧ Encoded s t := by
  obtain ⟨hlen, hsum, hseq, hcmd, hoff, hpay, hcrc, hcks⟩ := encodeFrame_spec s h
  have hregs : RegsSameExcept [.cks, .len, .crc] s (s.encodeFrame Config.hw) := regsSameExcept_iff.2 (by simp)
  refine ⟨_, exec_enc h, answered_respond _ _, ?_⟩
  generalize s.encodeFrame Config.hw = f at *
  obtain ⟨-, rseq, rcmd, roff, rplen, -, -, rstatus⟩ := regsSameExcept_iff.1 hregs
  exact
    { len := by simpa using hlen, crc := by simpa using hcrc, cks := by simpa using hcks,
      checksumBytes := by simpa using hsum, sequenceBytes := by simpa using hseq, commandBytes := by simpa using hcmd,
      offsetBytes := by simpa using hoff, payload := by simpa using hpay,
      regs := regsSameExcept_iff.2 (by simp [rseq, rcmd, roff, rplen]),
      status := by simpa [rstatus] using statusHas_setClass f .none false (classify Config.hw s.cmd) }

theorem Encoded.lengthLegal {s t : State} (h : Encoded s t) (hfit : 16 + s.plen.toNat ≤ 1024) : LengthLegal t := by
  have hlen := h.len
  exact ⟨by omega, by omega⟩

theorem Encoded.headerBytes {s t : State} (h : Encoded s t) :
    t.memRead 4 12 = enc32 Config.hw s.seq ++ tagbytes s.cmd ++ enc32 Config.hw s.off := by
  rw [memRead_append t 4 8 4, memRead_append t 4 4 4, h.sequenceBytes, h.commandBytes, h.offsetBytes]

theorem Encoded.payloadBytes {s t : State} (h : Encoded s t) (n : Nat) : t.memRead 16 n = s.memRead 16 n :=
  memRead_congr fun a ha _ => h.payload a ha

theorem Encoded.bufSameOutside {s t : State} (h : Encoded s t) : BufSameOutside 0 16 s t :=
  fun a ha => h.payload a (by omega)

/-- Settles O24: the fields, the payload and the CRC over both; a failing `ENC` writes `STATUS` alone. -/
theorem encRule : Obligations.EncRule := by
  unfold Obligations.EncRule
  refine ⟨fun a d => ?_, fun s => ⟨fun h => ?_, fun h => ?_⟩⟩
  · simp [append_eq_mkRequest, decode, decodeRequest]
  · obtain ⟨t, ht, hans, henc⟩ := exec_enc_encoded h
    refine ⟨t, ht, henc.len, ?_, henc.cks, ?_, henc.bufSameOutside, henc.regs, henc.status, hans⟩
    · rw [henc.crc, memRead_append, henc.headerBytes, henc.payloadBytes]
    · rw [memRead_append t 0 4 12, henc.checksumBytes, henc.headerBytes]
      simp only [List.append_assoc]
  · exact failure_writes_status_alone (exec_enc_over h)

/-! ### `DEC` (41_codec.md R116) -/

/-- `HoldsFields s t`: the registers of `t` hold the header fields of the frame in `s`, and that frame is still there. -/
structure HoldsFields (s t : State) : Prop where
  cks : t.cks = s.readField Config.hw 0
  seq : t.seq = s.readField Config.hw 4
  cmd : t.cmd = s.readTag 8
  off : t.off = s.readField Config.hw 12
  plen : t.plen.toNat = s.len.toNat - 16
  len : t.len = s.len
  buf : BufSame s t

/-- `Decoded s t`: the block state `t` is what a successful `DEC` leaves of `s` (R116). -/
structure Decoded (s t : State) : Prop extends HoldsFields s t where
  regs : RegsSameExcept [.cks, .seq, .cmd, .off, .plen, .status] s t
  status : StatusHas t.status s.status .none false (classify Config.hw t.cmd).number (statusHerr s.status)

theorem exec_dec_decoded {s : State} (h : LengthLegal s) :
    ∃ t, exec .dec s = .next t ∧ Answered s t .none ((classify Config.hw t.cmd).number.setWidth 32) ∧ Decoded s t := by
  have hmax := h.2
  exact ⟨_, exec_dec_legal h, answered_respond _ _,
    { cks := rfl, seq := rfl, cmd := rfl, off := rfl, plen := toNat_ofNat_of_lt (by rw [hw_hdr]; omega), len := rfl,
      buf := bufSame_of_eq rfl rfl, regs := regsSameExcept_iff.2 (by simp),
      status := statusHas_setClass (s.extractFields Config.hw) .none false _ }⟩

/-- Settles O25: the three paths of the length check. -/
theorem decRule : Obligations.DecRule := by
  unfold Obligations.DecRule
  refine ⟨fun a d => ?_, fun s => ⟨fun h => ?_, fun h => ?_, fun h => ?_⟩⟩
  · simp [append_eq_mkRequest, decode, decodeRequest]
  · obtain ⟨t, ht, hans, hdec⟩ := exec_dec_decoded h
    exact ⟨t, ht, hdec.cks, hdec.seq, hdec.cmd, hdec.off, hdec.plen, hdec.regs, hdec.buf, hdec.status, hans⟩
  · exact failure_writes_status_alone (exec_dec_short h)
  · exact failure_writes_status_alone (exec_dec_over h)

/-! ### `VFY` (41_codec.md R119) -/

/-- The comparison `VFY` makes, spelled out: the checksum of `BUF[4..LEN-1]` against the field in `BUF[0..3]`. -/
theorem frameVerifies_iff_dec32 {s : State} : FrameVerifies Config.hw s ↔ crc32 Config.hw (s.memRead 4 (s.len.toNat - 4)) =
    dec32 Config.hw (s.bufRead 0) (s.bufRead 1) (s.bufRead 2) (s.bufRead 3) := by
  simp [FrameVerifies, State.covered, State.readField]

/-- Settles O26: the length check, then the comparison that `FrameVerifies` names. -/
theorem vfyRule : Obligations.VfyRule := by
  unfold Obligations.VfyRule
  refine ⟨fun a d => ?_, fun s => ⟨fun h => ?_, fun h => ?_, fun h => ?_⟩⟩
  · simp [append_eq_mkRequest, decode, decodeRequest]
  · by_cases hv : FrameVerifies Config.hw s
    · exact ⟨_, exec_vfy_match h hv, rfl, regsSameExcept_iff.2 (by simp), fun _ => by simp,
        fun _ => ⟨statusHas_setVerdict (s.absorbFrame Config.hw) _ _, answered_respond _ _⟩,
        fun hne => absurd (frameVerifies_iff_dec32.1 hv) hne⟩
    · exact ⟨_, exec_vfy_mismatch h hv, rfl, regsSameExcept_iff.2 (by simp), fun _ => by simp,
        fun heq => absurd (frameVerifies_iff_dec32.2 heq) hv,
        fun _ => ⟨statusHas_setVerdict (s.absorbFrame Config.hw) _ _, answered_respond _ _⟩⟩
  · exact ⟨_, exec_vfy_short h, regsSameExcept_iff.2 (by simp), fun _ => by simp, statusHas_setVerdict s _ _,
      answered_respond _ _⟩
  · exact ⟨_, exec_vfy_over h, regsSameExcept_iff.2 (by simp), fun _ => by simp, statusHas_setVerdict s _ _,
      answered_respond _ _⟩

/-! ### Which frames verify (41_codec.md R119, R120) -/

/-- A frame verifies exactly if its first four bytes are those of the checksum of the rest. -/
theorem frameVerifies_iff {s : State} : FrameVerifies Config.hw s ↔
    s.memRead 0 4 = enc32 Config.hw (crc32 Config.hw (s.memRead 4 (s.len.toNat - 4))) :=
  eq_comm.trans readField_eq_iff

theorem exec_vfy_trusted {s : State} (h : LengthLegal s) (hv : FrameVerifies Config.hw s) :
    ∃ u, exec .vfy s = .next u ∧ Answered s u .none 1 ∧ Trusted u :=
  ⟨_, exec_vfy_match h hv, answered_respond _ _, statusCrcOk_putCrcOk _ true⟩

theorem exec_vfy_untrusted {s : State} (h : LengthLegal s) (hv : ¬FrameVerifies Config.hw s) :
    ∃ u, exec .vfy s = .next u ∧ Answered s u .checksumMismatch 0 ∧ ¬Trusted u :=
  ⟨_, exec_vfy_mismatch h hv, answered_respond _ _, Bool.eq_false_iff.1 (statusCrcOk_putCrcOk _ false)⟩

/-- `VFY` answers 1 only for a legal frame that verifies. -/
theorem verifies_of_vfy_answers_one {s v : State} (hv : exec .vfy s = .next v) (hans : Answered s v .none 1) :
    LengthLegal s ∧ FrameVerifies Config.hw s := by
  cases exec_inv hv with
  | vfyMatch hlegal hver => exact ⟨hlegal, hver⟩
  | vfyMismatch => exact absurd (hans.unique (answered_respond _ _)).1 (by decide)
  | vfyShort => exact absurd (hans.unique (answered_respond _ _)).1 (by decide)
  | vfyOver => exact absurd (hans.unique (answered_respond _ _)).1 (by decide)

/-! ### What `ENC` leaves verifies and decodes (41_codec.md R114, R118) -/

theorem Encoded.cks_eq_crc32 {s t : State} (h : Encoded s t) :
    t.cks = crc32 Config.hw (t.memRead 4 (t.len.toNat - 4)) := by
  rw [h.cks, h.crc, h.len, show 16 + s.plen.toNat - 4 = 12 + s.plen.toNat by omega]
  rfl

theorem Encoded.frameVerifies {s t : State} (h : Encoded s t) : FrameVerifies Config.hw t := by
  rw [frameVerifies_iff, h.checksumBytes, ← h.cks_eq_crc32]

/-- The fields of an encoded frame are the registers it was built from. -/
theorem Encoded.fields {s t : State} (h : Encoded s t) : t.readField Config.hw 0 = t.cks ∧
    t.readField Config.hw 4 = s.seq ∧ t.readTag 8 = s.cmd ∧ t.readField Config.hw 12 = s.off :=
  ⟨readField_eq_iff.2 h.checksumBytes, readField_eq_iff.2 h.sequenceBytes, readTag_eq_iff.2 h.commandBytes,
    readField_eq_iff.2 h.offsetBytes⟩

/-- Settles O28: the parts of the encoded frame, which verifies. -/
theorem encodedFrameVerifies : Obligations.EncodedFrameVerifies := by
  unfold Obligations.EncodedFrameVerifies
  refine ⟨fun s h => ?_, fun s h => ⟨_, exec_enc_over h, fun _ => by simp⟩⟩
  obtain ⟨t, ht, -, henc⟩ := exec_enc_encoded h
  obtain ⟨u, hu, hans, htrust⟩ := exec_vfy_trusted (henc.lengthLegal h) henc.frameVerifies
  obtain ⟨-, hseq, hcmd, hoff, -⟩ := regsSameExcept_iff.1 henc.regs
  refine ⟨t, u, ht, henc.lengthLegal h, frameVerifies_iff.1 henc.frameVerifies, ?_, ?_, ?_, henc.payload, hu, hans, htrust⟩
  · rw [henc.sequenceBytes, hseq (by decide)]
  · rw [henc.commandBytes, hcmd (by decide)]
  · rw [henc.offsetBytes, hoff (by decide)]

/-- The frame built again from the fields of a frame has the same covered bytes. -/
theorem covered_reencoded {s t u : State} (hdec : HoldsFields s t) (henc : Encoded t u) (h16 : 16 ≤ s.len.toNat) :
    u.memRead 4 (s.len.toNat - 4) = s.memRead 4 (s.len.toNat - 4) := by
  have hheader : s.memRead 4 12 = enc32 Config.hw t.seq ++ tagbytes t.cmd ++ enc32 Config.hw t.off := by
    rw [memRead_append s 4 8 4, memRead_append s 4 4 4, memRead_eq_enc32_readField Config.hw,
      memRead_eq_tagbytes_readTag, memRead_eq_enc32_readField Config.hw, hdec.seq, hdec.cmd, hdec.off]
  rw [show s.len.toNat - 4 = 12 + (s.len.toNat - 16) by omega, memRead_append, memRead_append, henc.headerBytes,
    hheader, henc.payloadBytes, hdec.buf.memRead]

/-- A verifying frame decoded and encoded again is the same frame, byte for byte (R118). -/
theorem bufSame_reencoded {s t u : State} (hdec : HoldsFields s t) (henc : Encoded t u) (h16 : 16 ≤ s.len.toNat)
    (hver : FrameVerifies Config.hw s) : u.len = s.len ∧ u.cks = t.cks ∧ BufSame s u := by
  have hlen : u.len = s.len := by
    have h := henc.len
    have hplen := hdec.plen
    exact BitVec.eq_of_toNat_eq (by omega)
  have hcov := covered_reencoded hdec henc h16
  have hcks : u.cks = t.cks := by
    rw [henc.cks_eq_crc32, hlen, hcov, hdec.cks]
    exact hver
  have hsum : u.memRead 0 4 = s.memRead 0 4 := by
    rw [henc.checksumBytes, hcks, hdec.cks, memRead_eq_enc32_readField Config.hw]
  refine ⟨hlen, hcks, fun a => ?_⟩
  by_cases hpay : 16 ≤ a
  · rw [henc.payload a hpay, hdec.buf a]
  by_cases hfield : 4 ≤ a
  · exact bufRead_eq_of_memRead_eq hcov hfield (by omega)
  · exact bufRead_eq_of_memRead_eq hsum (by omega) (by omega)

/-- Settles O29: each field reads back as the register it came from, and is written back as the bytes it was read from. -/
theorem encodeDecodeRoundTrip : Obligations.EncodeDecodeRoundTrip := by
  unfold Obligations.EncodeDecodeRoundTrip
  refine ⟨fun s h => ?_, fun s v hv hans => ?_⟩
  · obtain ⟨t, ht, -, henc⟩ := exec_enc_encoded h
    obtain ⟨u, hu, hans, hdec⟩ := exec_dec_decoded (henc.lengthLegal h)
    obtain ⟨hcks, hseq, hcmd, hoff⟩ := henc.fields
    obtain ⟨-, tseq, tcmd, toff, tplen, -⟩ := regsSameExcept_iff.1 henc.regs
    obtain ⟨-, -, tclass, -⟩ := henc.status
    obtain ⟨-, -, uclass, -⟩ := hdec.status
    have useq : u.seq = s.seq := hdec.seq.trans hseq
    have ucmd : u.cmd = s.cmd := hdec.cmd.trans hcmd
    have uoff : u.off = s.off := hdec.off.trans hoff
    have uplen : u.plen = s.plen := BitVec.eq_of_toNat_eq (by rw [hdec.plen, henc.len, Nat.add_sub_cancel_left])
    exact ⟨t, u, _, ht, hu, hans, useq.trans (tseq (by decide)).symm, ucmd.trans (tcmd (by decide)).symm,
      uoff.trans (toff (by decide)).symm, uplen.trans (tplen (by decide)).symm, hdec.cks.trans hcks, hdec.len,
      by rw [uclass, tclass, ucmd], useq, ucmd, uoff, uplen⟩
  · obtain ⟨hlegal, hver⟩ := verifies_of_vfy_answers_one hv hans
    obtain ⟨t, ht, -, hdec⟩ := exec_dec_decoded hlegal
    have hplen := hdec.plen
    have hmax := hlegal.2
    obtain ⟨u, hu, -, henc⟩ := exec_enc_encoded (s := t) (by omega)
    obtain ⟨hlen, hcks, hbuf⟩ := bufSame_reencoded hdec.toHoldsFields henc hlegal.1 hver
    exact ⟨t, u, ht, hu, hbuf, hlen, hcks⟩

/-! ### What `VFY` catches (41_codec.md R120, R121) -/

theorem LengthLegal.of_len_eq {s t : State} (h : LengthLegal s) (hlen : t.len = s.len) : LengthLegal t := by
  rwa [LengthLegal, hlen]

/-- A frame is its checksum field and the covered bytes. -/
theorem memRead_frame {s : State} (h : LengthLegal s) :
    s.memRead 0 s.len.toNat = s.memRead 0 4 ++ s.memRead 4 (s.len.toNat - 4) := by
  rw [← memRead_append, Nat.add_sub_cancel' (by have := h.1; omega)]

/-- No frame verifies that differs from a verifying one in its checksum field alone, or inside a window of 32 covered bits. -/
theorem not_frameVerifies_of_near {s s' : State} {k : Nat} (hlegal : LengthLegal s) (hver : FrameVerifies Config.hw s)
    (hlen : s'.len = s.len) (hne : s'.memRead 0 s.len.toNat ≠ s.memRead 0 s.len.toNat)
    (hnear : s'.memRead 4 (s.len.toNat - 4) = s.memRead 4 (s.len.toNat - 4) ∨
      (s'.memRead 0 4 = s.memRead 0 4 ∧ ∀ j, (j < k ∨ k + 32 ≤ j) →
        absorbedBit (s'.memRead 4 (s.len.toNat - 4)) j = absorbedBit (s.memRead 4 (s.len.toNat - 4)) j)) :
    ¬FrameVerifies Config.hw s' := by
  intro hver'
  have hframe' := memRead_frame (hlegal.of_len_eq hlen)
  rw [hlen] at hframe'
  rw [frameVerifies_iff] at hver hver'
  rw [hlen] at hver'
  rw [hframe', memRead_frame hlegal] at hne
  rcases hnear with hcov | ⟨hsum, hwin⟩
  · exact hne (by rw [hver', hcov, hver])
  · have hcrc := enc32_injective Config.hw (hver'.symm.trans (hsum.trans hver))
    exact burstsOf32BitsDetected.2 Config.hw _ _ k (by decide) (by simp [memRead_length])
      (fun hcov => hne (by rw [hsum, hcov])) hwin hcrc

/-- Writing the checksum of the covered bytes into the checksum field makes a frame verify. -/
theorem frameVerifies_memWrite_checksum (s : State) :
    FrameVerifies Config.hw (s.memWrite 0 (enc32 Config.hw (crc32 Config.hw (s.memRead 4 (s.len.toNat - 4))))) := by
  have hcov (bs : List Byte) (hbs : bs.length = 4) (n : Nat) : (s.memWrite 0 bs).memRead 4 n = s.memRead 4 n :=
    memRead_congr fun a ha _ => bufRead_memWrite_outside (by omega)
  rw [frameVerifies_iff, memWrite_len, hcov _ (enc32_length _ _)]
  exact memRead_memWrite s 0 _

/-- Settles O30: the verdict is `FrameVerifies`, which fixes the checksum field and excludes the near frames. -/
theorem verifiesExactlyItsChecksum : Obligations.VerifiesExactlyItsChecksum := by
  unfold Obligations.VerifiesExactlyItsChecksum
  refine ⟨fun s h => ?_, fun s h => ?_, fun s s' v v' _ hlen hcov hv hans hv' hans' => ?_,
    fun s s' v k hv hans hlen hne hnear => ?_⟩
  · by_cases hver : FrameVerifies Config.hw s
    · obtain ⟨u, hu, hans, -⟩ := exec_vfy_trusted h hver
      exact ⟨u, .none, 1, hu, hans, iff_of_true rfl (frameVerifies_iff.1 hver), by decide⟩
    · obtain ⟨u, hu, hans, -⟩ := exec_vfy_untrusted h hver
      exact ⟨u, .checksumMismatch, 0, hu, hans, iff_of_false (by decide) (mt frameVerifies_iff.2 hver), by decide⟩
  · obtain ⟨v, hv, hans, -⟩ := exec_vfy_trusted (h.of_len_eq (memWrite_len s 0 _)) (frameVerifies_memWrite_checksum s)
    exact ⟨_, enc32_length _ _, v, hv, hans⟩
  · have hver := frameVerifies_iff.1 (verifies_of_vfy_answers_one hv hans).2
    have hver' := frameVerifies_iff.1 (verifies_of_vfy_answers_one hv' hans').2
    rw [hver', hlen, hcov, hver]
  · obtain ⟨hlegal, hver⟩ := verifies_of_vfy_answers_one hv hans
    exact exec_vfy_untrusted (hlegal.of_len_eq hlen) (not_frameVerifies_of_near hlegal hver hlen hne hnear)

/-- The bits of a buffer range, by address. -/
theorem absorbedBit_memRead (s : State) (a n j : Nat) :
    absorbedBit (s.memRead a n) j = (decide (j / 8 < n) && (s.bufRead (a + j / 8)).getLsbD (j % 8)) := by
  by_cases hj : j / 8 < n
  · simp [absorbedBit, State.memRead, hj]
  · simp [absorbedBit, State.memRead, hj]

/-- One byte of the covered bytes lies inside a window of 32 bits. -/
theorem absorbedBit_of_bufSameOutside {s t : State} {a : Nat} (h : BufSameOutside a 1 s t) (ha : 4 ≤ a) (n : Nat) {j : Nat}
    (hj : j < 8 * (a - 4) ∨ 8 * (a - 4) + 32 ≤ j) :
    absorbedBit (t.memRead 4 n) j = absorbedBit (s.memRead 4 n) j := by
  rw [absorbedBit_memRead, absorbedBit_memRead, h (4 + j / 8) (by omega)]

/-- No frame verifies that differs from a verifying one in a single byte. -/
theorem not_frameVerifies_of_byte {s t : State} {a : Nat} (hlegal : LengthLegal s) (hver : FrameVerifies Config.hw s)
    (hlen : t.len = s.len) (hout : BufSameOutside a 1 s t) (ha : a < s.len.toNat) (hne : t.bufRead a ≠ s.bufRead a) :
    ¬FrameVerifies Config.hw t := by
  refine not_frameVerifies_of_near (k := 8 * (a - 4)) hlegal hver hlen
    (fun h => hne (bufRead_eq_of_memRead_eq h (by omega) (by omega))) ?_
  by_cases hfield : a < 4
  · exact .inl (memRead_congr fun k hk _ => hout k (by omega))
  · exact .inr ⟨memRead_congr fun k _ hk => hout k (by omega),
      fun j => absorbedBit_of_bufSameOutside hout (by omega) _⟩

/-- Settles O31: the byte `WRB` writes is the only one in which the two frames differ. -/
theorem byteCorruptionCaught : Obligations.ByteCorruptionCaught := by
  unfold Obligations.ByteCorruptionCaught
  intro s v a b hv hans ha hb
  obtain ⟨hlegal, hver⟩ := verifies_of_vfy_answers_one hv hans
  have hmax := hlegal.2
  obtain ⟨t, ht, hlen, hbyte, hout⟩ : ∃ t, exec (.wrb a b) s = .next t ∧ t.len = s.len ∧ t.bufRead a.toNat = b ∧
      BufSameOutside a.toNat 1 s t :=
    ⟨_, exec_wrb b s (by omega), rfl, by simp [bufRead_bufWrite], bufSameOutside_bufWrite s a.toNat b⟩
  obtain ⟨u, hu⟩ := exec_vfy_untrusted (hlegal.of_len_eq hlen)
    (not_frameVerifies_of_byte hlegal hver hlen hout ha (hbyte.symm ▸ hb))
  exact ⟨t, u, ht, hu⟩

/-! ### Programs: writing bytes and registers (30_encoding.md R80) -/

/-- A run starts with its own program as the pending inputs, whatever was pending before. -/
theorem runProgram_inputs (p : List Instr) (s : State) (l : List Input) :
    runProgram p { s with inputs := l } = runProgram p s := rfl

/-- A program of one request. -/
theorem runProgram_single {i : Instr} {s t : State} (h : exec i { s with inputs := [] } = .next t) :
    runProgram [i] s = .next t := by
  have hinputs : t.inputs = [] := (exec_inv h).channel_kept.1
  rw [runProgram_cons h, runProgram_nil, ← hinputs]

/-- The state after `WRB` requests that write `bs` from address `a` up, each answered with `NONE`. -/
def State.staged (s : State) (a : Nat) (bs : List Byte) : State :=
  { s.memWrite a bs with responses := s.responses ++ List.replicate bs.length ⟨.none, 0⟩ }

theorem runProgram_writesFrom (p : List Instr) {a : Nat} {bs : List Byte} (h : a + bs.length ≤ 1024) (s : State) :
    runProgram (writesFrom a bs ++ p) s = runProgram p (s.staged a bs) := by
  induction bs generalizing a s with
  | nil => simp [writesFrom, State.staged, State.memWrite, Memory.setAll]
  | cons b bs ih =>
    rw [List.length_cons] at h
    have haddr : (BitVec.ofNat 16 a).toNat = a := toNat_ofNat_of_lt (by omega)
    rw [writesFrom, List.cons_append, runProgram_cons (exec_wrb b _ (by omega)), ih (by omega), haddr,
      ← runProgram_inputs p _ s.inputs]
    simp [State.staged, State.memWrite, Memory.setAll, State.bufWrite, State.respond, List.replicate_succ]

theorem runProgram_wrr {r : Reg} (hr : regReadOnly r = false) (d : Word) (p : List Instr) (s : State) :
    runProgram (.wrr (regAddr r) d :: p) s = runProgram p ((s.writeReg r d).respond .none 0) := by
  rw [runProgram_cons (exec_wrr d _ (regOfAddr_regAddr r) hr), ← runProgram_inputs p _ s.inputs]
  cases r <;> rfl

/-! ### The receiver (41_codec.md R124) -/

/-- After `LOADFRAME` the bytes stand in `BUF` and `LEN` is their number. -/
theorem runProgram_loadframe {f : List Byte} (h : f.length ≤ 1024) (p : List Instr) (s : State) :
    ∃ q x, loadframe f = some q ∧ runProgram (q ++ p) s = runProgram p x ∧ x.memRead 0 f.length = f ∧
      x.len.toNat = f.length := by
  refine ⟨_, ((s.staged 0 f).writeReg .len (BitVec.ofNat 32 f.length)).respond .none 0, loadframe_some (by omega),
    ?_, ?_, ?_⟩
  · rw [List.append_assoc, runProgram_writesFrom _ (by omega)]
    exact runProgram_wrr (r := .len) rfl _ p _
  · exact memRead_memWrite s 0 f
  · exact toNat_ofNat_of_lt (by omega)

theorem HoldsFields.of_regs_kept {s t u : State} (h : HoldsFields s t) (hregs : RegsSameExcept [.crc, .status] t u)
    (hbuf : BufSame t u) : HoldsFields s u := by
  obtain ⟨hcks, hseq, hcmd, hoff, hplen, hlen, -, -⟩ := regsSameExcept_iff.1 hregs
  exact
    { cks := (hcks (by decide)).trans h.cks, seq := (hseq (by decide)).trans h.seq, cmd := (hcmd (by decide)).trans h.cmd,
      off := (hoff (by decide)).trans h.off, plen := (congrArg _ (hplen (by decide))).trans h.plen,
      len := (hlen (by decide)).trans h.len, buf := bufSame_trans h.buf hbuf }

/-- `Received x u`: the block state `u` is what `DECODE` leaves of a legal frame in `x` (R124). -/
structure Received (x u : State) : Prop extends HoldsFields x u where
  cls : statusClass u.status = (classify Config.hw u.cmd).number
  trusted : Trusted u ↔ FrameVerifies Config.hw x
  answer : FrameVerifies Config.hw x → u.responses.getLast? = some ⟨.none, 1⟩

theorem runProgram_decodeOp {x : State} (h : LengthLegal x) : ∃ u, runProgram decodeOp x = .next u ∧ Received x u := by
  obtain ⟨t, ht, -, hdec⟩ := exec_dec_decoded (s := { x with inputs := programInputs [.vfy] }) h
  obtain ⟨-, -, tclass, -⟩ := hdec.status
  have hfields : HoldsFields x { t with inputs := [] } :=
    ⟨hdec.cks, hdec.seq, hdec.cmd, hdec.off, hdec.plen, hdec.len, hdec.buf⟩
  have hver : FrameVerifies Config.hw { t with inputs := [] } ↔ FrameVerifies Config.hw x :=
    frameVerifies_congr hfields.len h.1 fun a _ => hfields.buf a
  obtain ⟨u, hu, -, hregs, hbuf, hmatch, hmismatch⟩ := (vfyRule.2 { t with inputs := [] }).1 (h.of_len_eq hfields.len)
  have hrun : runProgram decodeOp x = .next u := (runProgram_cons ht).trans (runProgram_single hu)
  have hcmd : u.cmd = t.cmd := hregs .cmd (by decide)
  have hheld := hfields.of_regs_kept hregs hbuf
  by_cases hv : FrameVerifies Config.hw { t with inputs := [] }
  · obtain ⟨⟨-, hok, uclass, -⟩, hresp, -⟩ := hmatch hv
    exact ⟨u, hrun, hheld, by rw [uclass, hcmd]; exact tclass, iff_of_true hok (hver.1 hv), fun _ => by simp [hresp]⟩
  · obtain ⟨⟨-, hok, uclass, -⟩, -⟩ := hmismatch hv
    exact ⟨u, hrun, hheld, by rw [uclass, hcmd]; exact tclass, iff_of_false (Bool.eq_false_iff.1 hok) (mt hver.2 hv),
      fun hx => absurd (hver.2 hx) hv⟩

/-- The receiver's program, `LOADFRAME` and `DECODE`, decodes the frame it loads. -/
theorem runProgram_receive {f : List Byte} (h16 : 16 ≤ f.length) (hmax : f.length ≤ 1024) (s : State) :
    ∃ q x u, loadframe f = some q ∧ runProgram (q ++ decodeOp) s = .next u ∧ x.memRead 0 f.length = f ∧
      x.len.toNat = f.length ∧ Received x u := by
  obtain ⟨q, x, hq, hrun, hbytes, hlen⟩ := runProgram_loadframe hmax decodeOp s
  obtain ⟨u, hu, hrec⟩ := runProgram_decodeOp (x := x) ⟨by omega, by omega⟩
  exact ⟨q, x, u, hq, hrun.trans hu, hbytes, hlen, hrec⟩

theorem bufRead_of_memRead {s : State} {f : List Byte} (h : s.memRead 0 f.length = f) {k : Nat} (hk : k < f.length) :
    s.bufRead k = f.getD k 0 := by
  have hbyte := congrArg (·.getD k 0) h
  simpa [State.memRead, hk] using hbyte

theorem readField_of_memRead {s : State} {f : List Byte} (cfg : Config) (h : s.memRead 0 f.length = f) {a : Nat}
    (ha : a + 3 < f.length) :
    s.readField cfg a = dec32 cfg (f.getD a 0) (f.getD (a + 1) 0) (f.getD (a + 2) 0) (f.getD (a + 3) 0) := by
  rw [State.readField, bufRead_of_memRead h (by omega), bufRead_of_memRead h (by omega), bufRead_of_memRead h (by omega),
    bufRead_of_memRead h ha]

/-- A loaded frame verifies exactly if its first four bytes are the checksum of the rest. -/
theorem frameVerifies_of_memRead {s : State} {f : List Byte} (h : s.memRead 0 f.length = f) (hlen : s.len.toNat = f.length)
    (h4 : 4 ≤ f.length) : FrameVerifies Config.hw s ↔ f.take 4 = enc32 Config.hw (crc32 Config.hw (f.drop 4)) := by
  have hsplit : s.memRead 0 4 ++ s.memRead 4 (f.length - 4) = f := by rw [← memRead_append, Nat.add_sub_cancel' h4, h]
  have htake : f.take 4 = s.memRead 0 4 := hsplit ▸ List.take_left' (memRead_length _ _ _)
  have hdrop : f.drop 4 = s.memRead 4 (f.length - 4) := by
    conv_lhs => rw [← hsplit]
    exact List.drop_left' (memRead_length _ _ _)
  rw [frameVerifies_iff, hlen, htake, hdrop]

/-- Settles O43: the frame as loaded, its fields as decoded, the verdict as `VFY` finds it. -/
theorem receiveProgramReadsFrame : Obligations.ReceiveProgramReadsFrame := by
  unfold Obligations.ReceiveProgramReadsFrame
  intro f s h16 hmax
  obtain ⟨q, x, u, hq, hrun, hbytes, hlen, hrec⟩ := runProgram_receive h16 hmax s
  have hfield (a : Nat) (ha : a + 3 < f.length) := readField_of_memRead Config.hw hbytes ha
  exact ⟨q, u, hq, hrun, (hrec.buf.memRead _ _).trans hbytes, (congrArg _ hrec.len).trans hlen,
    hrec.plen.trans (by rw [hlen]), hrec.cks.trans (hfield 0 (by omega)), hrec.seq.trans (hfield 4 (by omega)),
    hrec.cmd.trans (hfield 8 (by omega)), hrec.off.trans (hfield 12 (by omega)), hrec.cls,
    hrec.trusted.trans (frameVerifies_of_memRead hbytes hlen (by omega))⟩

/-! ### The sender, and the receiver after it (95_test_vectors.md S1, S3) -/

/-- `ENCODE` is `ENC` after the four register writes. -/
theorem runProgram_encodeWithWord (seq tag off n : Word) (s : State) : ∃ y,
    runProgram (encodeWithWord seq tag off n) s = runProgram [.enc] y ∧ y.seq = seq ∧ y.cmd = tag ∧ y.off = off ∧
      y.plen = n ∧ BufSame s y := by
  have hrun := (runProgram_wrr (r := .seq) rfl seq _ s).trans ((runProgram_wrr (r := .cmd) rfl tag _ _).trans
    ((runProgram_wrr (r := .off) rfl off _ _).trans (runProgram_wrr (r := .plen) rfl n [.enc] _)))
  exact ⟨_, hrun, rfl, rfl, rfl, rfl, bufSame_of_eq rfl rfl⟩

/-- The sender's program: from the state `y` with the payload and the four registers in place, `ENC` leaves `t`. -/
theorem runProgram_send (seq tag off : Word) {payload : List Byte} (h : payload.length ≤ 1008) (s : State) :
    ∃ p y t, ldbytes 16 payload = some p ∧
      runProgram (p ++ encodeWithWord seq tag off (BitVec.ofNat 32 payload.length)) s = .next t ∧
      y.seq = seq ∧ y.cmd = tag ∧ y.off = off ∧ y.plen.toNat = payload.length ∧ y.memRead 16 payload.length = payload ∧
      Encoded y t := by
  have hexpand : ldbytes 16 payload = some (writesFrom 16 payload) := ldbytes_some (a := 16) (by simp; omega)
  have hfit : (BitVec.ofNat 32 payload.length).toNat = payload.length := toNat_ofNat_of_lt (by omega)
  obtain ⟨y, hrun, hseq, hcmd, hoff, hplen, hbuf⟩ :=
    runProgram_encodeWithWord seq tag off (BitVec.ofNat 32 payload.length) (s.staged 16 payload)
  have hpay : y.memRead 16 payload.length = payload := (hbuf.memRead _ _).trans (memRead_memWrite s 16 payload)
  have hlen : y.plen.toNat = payload.length := by rw [hplen, hfit]
  obtain ⟨t, ht, -, henc⟩ := exec_enc_encoded (s := { y with inputs := [] }) (show 16 + y.plen.toNat ≤ 1024 by omega)
  refine ⟨_, { y with inputs := [] }, t, hexpand, ?_, hseq, hcmd, hoff, hlen, hpay, henc⟩
  rw [runProgram_writesFrom _ (by omega), hrun, runProgram_single ht]

/-- Settles O44: the receiver's block holds the bytes of the sender's frame, which verifies and whose fields read back. -/
theorem sendThenReceive : Obligations.SendThenReceive := by
  unfold Obligations.SendThenReceive
  intro seq tag off payload s r h
  obtain ⟨p, y, t, hp, ht, hseq, hcmd, hoff, hplen, hpay, henc⟩ := runProgram_send seq tag off h s
  have htlen : t.len.toNat = 16 + payload.length := henc.len.trans (by rw [hplen])
  have hflen : (t.memRead 0 (16 + payload.length)).length = 16 + payload.length := memRead_length _ _ _
  obtain ⟨q, x, u, hq, hu, hbytes, hxlen, hrec⟩ :=
    runProgram_receive (f := t.memRead 0 (16 + payload.length)) (by omega) (by omega) r
  rw [hflen] at hbytes hxlen
  have hbyte (a : Nat) (ha : a < 16 + payload.length) : x.bufRead a = t.bufRead a :=
    bufRead_eq_of_memRead_eq hbytes (Nat.zero_le a) (by omega)
  have hfield (a : Nat) (ha : a + 4 ≤ 16) : x.readField Config.hw a = t.readField Config.hw a :=
    readField_congr fun k _ hk => hbyte k (by omega)
  have hver : FrameVerifies Config.hw x := (frameVerifies_congr (BitVec.eq_of_toNat_eq (hxlen.trans htlen.symm))
    (by omega) fun a ha => hbyte a (by omega)).2 henc.frameVerifies
  obtain ⟨fcks, fseq, fcmd, foff⟩ := henc.fields
  have hupay : u.memRead 16 payload.length = payload := by
    rw [hrec.buf.memRead, memRead_congr fun k _ hk => hbyte k hk, henc.payloadBytes, hpay]
  exact ⟨p, q, t, u, hp, ht, hq, hu, htlen,
    by rw [hrec.seq, hfield 4 (by omega), fseq, hseq],
    by rw [hrec.cmd, readTag_eq_readField, hfield 8 (by omega), ← readTag_eq_readField, fcmd, hcmd],
    by rw [hrec.off, hfield 12 (by omega), foff, hoff],
    by rw [hrec.plen, hxlen, Nat.add_sub_cancel_left],
    by rw [hrec.cks, hfield 0 (by omega), fcks],
    hupay, hrec.trusted.2 hver, hrec.answer hver⟩

end Sys2Proof.Machine

/-! ## Proofs of the family `42_access_system.md`: buffer and register access, `NOP` and `CLR` -/

namespace Sys2Proof.Machine

/-! ### What a misused request does, and one that only answers -/

/-- A misused request sets `HERR`, answers with its code and changes nothing else (60_exceptions.md R150, R155). -/
theorem misuse_sets_herr_alone {i : Instr} {s : State} {c : ResultCode} (h : exec i s = misuse c s) :
    ∃ t, exec i s = .next t ∧ HerrRaised t.status s.status ∧ RegsSameExcept [.status] s t ∧ BufSame s t ∧
      Answered s t c 0 :=
  ⟨_, h, herrRaised_setHerr s, regsSame_misuse c s, bufSame_of_eq rfl rfl, answered_respond _ _⟩

/-- A request that does no more than answer keeps every register and every byte. -/
theorem respond_changes_nothing {i : Instr} {s : State} {c : ResultCode} {d : Word} (h : exec i s = .next (s.respond c d)) :
    ∃ t, exec i s = .next t ∧ RegsSameExcept [] s t ∧ BufSame s t ∧ Answered s t c d :=
  ⟨_, h, fun r _ => readReg_respond s c d r, bufSame_of_eq rfl rfl, answered_respond _ _⟩

/-! ### The buffer: `WRB`, `RDB` (R130, R131) -/

/-- Settles O19: one byte written below 1024, a misused request above. -/
theorem wrbRule : Obligations.WrbRule := by
  unfold Obligations.WrbRule
  refine ⟨fun a d => ?_, fun s a b => ⟨fun h => ?_, fun h => misuse_sets_herr_alone (exec_wrb_bad b s h)⟩⟩
  · simp [append_eq_mkRequest, decode, decodeRequest]
  · refine ⟨_, exec_wrb b s h, ?_, bufSameOutside_bufWrite s a.toNat b, regsSameExcept_iff.2 (by simp), answered_respond _ _⟩
    rw [bufRead_respond, bufRead_bufWrite, if_pos rfl]

/-- Settles O20: the answer is the byte under 24 zero bits; a misused request above 1023. -/
theorem rdbRule : Obligations.RdbRule := by
  unfold Obligations.RdbRule
  refine ⟨fun a d => ?_, fun s a => ⟨fun h => ?_, fun h => misuse_sets_herr_alone (exec_rdb_bad s h)⟩⟩
  · simp [append_eq_mkRequest, decode, decodeRequest]
  · have hzext : 0#24 ++ s.bufRead a.toNat = (s.bufRead a.toNat).setWidth 32 := (BitVec.setWidth_eq_append (by decide)).symm
    rw [hzext]
    exact respond_changes_nothing (exec_rdb s h)

/-! ### The registers: `WRR`, `RDR` (R132, R133) -/

/-- A register write keeps the seven other registers. -/
theorem regsSame_writeReg (s : State) (r : Reg) (v : Word) : RegsSameExcept [r] s (s.writeReg r v) := by
  intro q hq
  rw [readReg_writeReg, if_neg (by simpa using hq)]

/-- `WRR` to a writable register writes that register alone (R132). -/
theorem exec_wrr_writes_register {r : Reg} (hr : regReadOnly r = false) (d : Word) (s : State) :
    ∃ t, exec (.wrr (regAddr r) d) s = .next t ∧ t.readReg r = d ∧ RegsSameExcept [r] s t ∧ BufSame s t ∧
      Answered s t .none 0 := by
  refine ⟨_, exec_wrr d s (regOfAddr_regAddr r) hr, ?_, fun q hq => ?_, fun a => ?_, answered_respond _ _⟩
  · rw [readReg_respond, readReg_writeReg, if_pos rfl]
  · rw [readReg_respond, regsSame_writeReg s r d q hq]
  · rw [bufRead_respond, bufRead_writeReg]

/-- Settles O21: the five writable registers by one lemma; the other numbers are misused requests. -/
theorem wrrRule : Obligations.WrrRule := by
  unfold Obligations.WrrRule
  refine ⟨fun a d => ?_, fun s d => ⟨fun r hr => ?_, fun a h => ?_, fun a h => misuse_sets_herr_alone (exec_wrr_bad d s h)⟩⟩
  · simp [append_eq_mkRequest, decode, decodeRequest]
  · refine exec_wrr_writes_register ?_ d s
    rcases hr with rfl | rfl | rfl | rfl | rfl <;> rfl
  · exact misuse_sets_herr_alone (ExecCase.wrrReadOnly a d h).exec_eq

/-- The value at a number in the order of R12 is that of the register `regOfAddr` finds for the number. -/
theorem exists_reg_of_getElem? {s : State} {a : Addr} {v : Word}
    (h : [s.cks, s.seq, s.cmd, s.off, s.plen, s.len, s.crc, s.status][a.toNat]? = some v) :
    ∃ r, regOfAddr Config.hw a = some r ∧ s.readReg r = v := by
  have hmap : (regOrder.map s.readReg)[a.toNat]? = some v := h
  rw [List.getElem?_map, Option.map_eq_some_iff] at hmap
  obtain ⟨r, hr, hv⟩ := hmap
  obtain ⟨hlt, -⟩ := List.getElem?_eq_some_iff.1 hr
  exact ⟨r, (regOfAddr_some hlt).trans hr, hv⟩

/-- Settles O22: the value of the register the number names; a misused request for a number of 8 or more. -/
theorem rdrRule : Obligations.RdrRule := by
  unfold Obligations.RdrRule
  refine ⟨fun a d => ?_, fun s => ⟨fun a v h => ?_, fun a h => misuse_sets_herr_alone (exec_rdr_bad s h)⟩⟩
  · simp [append_eq_mkRequest, decode, decodeRequest]
  · obtain ⟨r, hr, rfl⟩ := exists_reg_of_getElem? h
    exact respond_changes_nothing (exec_rdr s hr)

/-! ### `NOP` and `CLR` (R134, R135) -/

/-- Only `CLR` clears `HERR`: every other way to write `STATUS` keeps it or sets it (10_state.md R25). -/
theorem StatusCase.herr_kept {s t : State} {i : Instr} (h : StatusCase s t i) (hne : i ≠ .clr)
    (hs : statusHerr s.status = true) : statusHerr t.status = true := by
  cases h with
  | kept _ _ hw => rw [hw, hs]
  | misused _ _ hw => rw [hw, statusHerr_putHerr]
  | cleared hclr => exact absurd hclr hne
  | judged _ _ _ _ _ _ _ hw => rw [hw, statusHerr_putCrcOk, statusHerr_putErr, hs]
  | classified _ _ _ _ _ _ _ hw => rw [hw, statusHerr_putClass, statusHerr_putCrcOk, statusHerr_putErr, hs]

/-- Settles O23: `NOP` only answers, `CLR` writes the reset values, and no other instruction clears `HERR`. -/
theorem nopAndClrRule : Obligations.NopAndClrRule := by
  unfold Obligations.NopAndClrRule
  refine ⟨fun a d => ?_, fun s => ⟨respond_changes_nothing (exec_nop s), ?_, fun i t h => ?_⟩⟩
  · simp [append_eq_mkRequest, decode, decodeRequest]
  · exact ⟨_, exec_clr s, rfl, rfl, rfl, rfl, rfl, rfl, rfl, rfl, bufSame_of_eq rfl rfl, answered_respond _ _⟩
  · exact (exec_inv h).statusCase.herr_kept

end Sys2Proof.Machine

/-! ## Proofs of the family `60_exceptions.md`: what a failing operation leaves, misuse and `HERR`, the other reading of log 7 -/

namespace Sys2Proof.Machine

/-! ### How an instruction is answered -/

/-- The codes of the length checks of `ENC`, `DEC`, `VFY` and `CRCP` (60_exceptions.md R150, R153). -/
def IsLengthError (c : ResultCode) : Prop := c = .tooShort ∨ c = .oversized

theorem IsLengthError.isMisuse {c : ResultCode} (h : IsLengthError c) : c.isMisuse = false := by
  rcases h with rfl | rfl <;> rfl

theorem IsLengthError.ne_mismatch {c : ResultCode} (h : IsLengthError c) : c ≠ .checksumMismatch := by
  rcases h with rfl | rfl <;> decide

/-- `AnswerCase s t i`: one of the ways instruction `i`, which took `s` to `t`, can have been answered (60_exceptions.md R150,
R155): a tag gets no response, a request succeeds, or it fails, and then the whole state it leaves is written out. -/
inductive AnswerCase (s t : State) (i : Instr) : Prop where
  | silent (hwf : i.wellFormed = true) (hr : t.responses = s.responses) (hw : t.status = s.status)
  | succeeded (d : Word) (hwf : i.wellFormed = true) (hr : t.responses = s.responses ++ [⟨.none, d⟩])
      (hkeep : ContractKept s → ContractKept t)
  | misused (c : ResultCode) (hwf : i.wellFormed = false) (hc : c.isMisuse = true) (ht : t = (s.setHerr true).respond c 0)
  | badLength (c : ResultCode) (hi : i = .vfy ∨ i = .crcp) (hc : IsLengthError c) (ht : t = (s.setVerdict c false).respond c 0)
  | unclassified (c : ResultCode) (hi : i = .enc ∨ i = .dec) (hc : IsLengthError c)
      (ht : t = ((s.setVerdict c false).setClass .unknown).respond c 0)
  | mismatch (hi : i = .vfy)
      (ht : t = ((s.absorbFrame Config.hw).setVerdict .checksumMismatch false).respond .checksumMismatch 0)

/-- Every instruction is answered in one of the ways listed. -/
theorem ExecCase.answerCase {s t : State} {i : Instr} (h : ExecCase s i t) : AnswerCase s t i := by
  cases h with
  | name | size | hash | data | stop => exact .silent rfl rfl rfl
  | nop | crci | crcb | crcf => exact .succeeded _ rfl rfl id
  | clr => exact .succeeded 0 rfl rfl fun _ => statusHerr_zero
  | wrb a b h => exact .succeeded 0 (wellFormed_wrb.2 h) rfl id
  | rdb a h => exact .succeeded _ (wellFormed_rdb.2 h) rfl id
  | rdr a r h => exact .succeeded _ (wellFormed_rdr.2 h) rfl id
  | wrrSeq a d h | wrrCmd a d h | wrrOff a d h | wrrPlen a d h | wrrLen a d h =>
    exact .succeeded 0 (wellFormed_wrr.2 (by omega)) rfl id
  | crcpLegal | decLegal | vfyMatch => exact .succeeded _ rfl rfl (by simp [ContractKept])
  | encFits => exact .succeeded (s.encodeFrame Config.hw).cks rfl (by simp) (by simp [ContractKept])
  | wrbBad a b h => exact .misused _ (Bool.eq_false_iff.2 (wellFormed_wrb.not.2 (by omega))) rfl rfl
  | rdbBad a h => exact .misused _ (Bool.eq_false_iff.2 (wellFormed_rdb.not.2 (by omega))) rfl rfl
  | rdrBad a h => exact .misused _ (Bool.eq_false_iff.2 (wellFormed_rdr.not.2 (by omega))) rfl rfl
  | wrrReadOnly a d h | wrrBad a d h => exact .misused _ (Bool.eq_false_iff.2 (wellFormed_wrr.not.2 (by omega))) rfl rfl
  | crcpShort => exact .badLength _ (.inr rfl) (.inl rfl) rfl
  | crcpOver => exact .badLength _ (.inr rfl) (.inr rfl) rfl
  | vfyShort => exact .badLength _ (.inl rfl) (.inl rfl) rfl
  | vfyOver => exact .badLength _ (.inl rfl) (.inr rfl) rfl
  | encOver => exact .unclassified _ (.inl rfl) (.inr rfl) rfl
  | decShort => exact .unclassified _ (.inr rfl) (.inl rfl) rfl
  | decOver => exact .unclassified _ (.inr rfl) (.inr rfl) rfl
  | vfyMismatch => exact .mismatch rfl rfl

/-- The response at the end of the list is the one that was added. -/
theorem response_unique {l : List Response} {c c' : ResultCode} {d d' : Word} (h : l ++ [⟨c, d⟩] = l ++ [⟨c', d'⟩]) :
    c = c' ∧ d = d' := by
  simpa using h

/-! ### Failing operations (60_exceptions.md R150, R155) -/

/-- Settles O35: the four ways to fail; `CRC` is written by the `VFY` that finds a mismatch alone (log 7). -/
theorem failuresArePrecise : Obligations.FailuresArePrecise := by
  unfold Obligations.FailuresArePrecise
  intro i s t c d h hr hc
  cases (exec_inv h).answerCase with
  | silent _ hr' => simp [hr'] at hr
  | succeeded _ _ hr' =>
    obtain ⟨rfl, -⟩ := response_unique (hr'.symm.trans hr)
    exact absurd rfl hc
  | misused c' _ hmis ht =>
    subst ht
    obtain ⟨rfl, rfl⟩ := response_unique hr
    have hne : c' ≠ .checksumMismatch := by rintro rfl; cases hmis
    exact ⟨rfl, bufSame_of_eq rfl rfl, regsSameExcept_iff.2 (by simp), fun _ => rfl, fun h => absurd h hne,
      fun _ => herrRaised_setHerr s, fun h => by simp [hmis] at h⟩
  | badLength c' hi hlen ht =>
    subst ht
    obtain ⟨rfl, rfl⟩ := response_unique hr
    have hnot : ¬(i = .enc ∨ i = .dec) := by rcases hi with rfl | rfl <;> simp
    exact ⟨rfl, bufSame_of_eq rfl rfl, regsSameExcept_iff.2 (by simp), fun _ => rfl, fun h => absurd h hlen.ne_mismatch,
      fun h => by simp [hlen.isMisuse] at h, fun _ => by simp [hnot]⟩
  | unclassified c' hi hlen ht =>
    subst ht
    obtain ⟨rfl, rfl⟩ := response_unique hr
    exact ⟨rfl, bufSame_of_eq rfl rfl, regsSameExcept_iff.2 (by simp), fun _ => rfl, fun h => absurd h hlen.ne_mismatch,
      fun h => by simp [hlen.isMisuse] at h, fun _ => by simp [hi, CmdClass.number]⟩
  | mismatch hi ht =>
    subst ht hi
    obtain ⟨rfl, rfl⟩ := response_unique hr
    exact ⟨rfl, bufSame_of_eq rfl rfl, regsSameExcept_iff.2 (by simp), fun h => absurd rfl h, fun _ => rfl, nofun,
      fun _ => by simp⟩

/-! ### Misuse and `HERR` (60_exceptions.md R152, R156) -/

theorem AnswerCase.code_of_wellFormed {s t : State} {i : Instr} (h : AnswerCase s t i) (hwf : i.wellFormed = true)
    {c : ResultCode} {d : Word} (hr : t.responses = s.responses ++ [⟨c, d⟩]) : c.isMisuse = false := by
  cases h with
  | silent _ hr' => simp [hr'] at hr
  | succeeded _ _ hr' =>
    obtain ⟨rfl, -⟩ := response_unique (hr'.symm.trans hr)
    rfl
  | misused _ hill => simp [hwf] at hill
  | badLength c' _ hlen ht | unclassified c' _ hlen ht =>
    subst ht
    obtain ⟨rfl, -⟩ := response_unique hr
    exact hlen.isMisuse
  | mismatch _ ht =>
    subst ht
    obtain ⟨rfl, -⟩ := response_unique hr
    rfl

theorem AnswerCase.contractKept_of_wellFormed {s t : State} {i : Instr} (h : AnswerCase s t i) (hwf : i.wellFormed = true)
    (hs : ContractKept s) : ContractKept t := by
  cases h with
  | silent _ _ hw => rwa [ContractKept, hw]
  | succeeded _ _ _ hkeep => exact hkeep hs
  | misused _ hill => simp [hwf] at hill
  | badLength _ _ _ ht | unclassified _ _ _ ht | mismatch _ ht => subst ht; simpa [ContractKept] using hs

theorem AnswerCase.misused_of_illFormed {s t : State} {i : Instr} (h : AnswerCase s t i) (hill : i.wellFormed = false) :
    ∃ c, c.isMisuse = true ∧ t = (s.setHerr true).respond c 0 := by
  cases h with
  | silent hwf | succeeded _ hwf => simp [hwf] at hill
  | misused c _ hmis ht => exact ⟨c, hmis, ht⟩
  | badLength _ hi | unclassified _ hi => rcases hi with rfl | rfl <;> cases hill
  | mismatch hi => subst hi; cases hill

/-- Settles O36: the code and `HERR` of a well-formed request, and what an ill-formed one leaves. -/
theorem contractDecidesMisuse : Obligations.ContractDecidesMisuse := by
  unfold Obligations.ContractDecidesMisuse
  intro i s t h
  have hans := (exec_inv h).answerCase
  refine ⟨fun hwf => ⟨fun c d => hans.code_of_wellFormed hwf, hans.contractKept_of_wellFormed hwf⟩, fun hill => ?_⟩
  obtain ⟨c, hmis, rfl⟩ := hans.misused_of_illFormed hill
  exact ⟨⟨c, rfl, hmis⟩, by simp [ContractKept]⟩

/-- Settles O37: `HERR` is kept by every way to write `STATUS` but that of `CLR`, and raised by an ill-formed request alone. -/
theorem herrStaysUntilClr : Obligations.HerrStaysUntilClr := by
  unfold Obligations.HerrStaysUntilClr
  intro i s t h
  refine ⟨fun hs hne => (exec_inv h).statusCase.herr_kept hne hs, ?_, fun hs ht => ?_⟩
  · rintro rfl
    cases exec_inv h
    exact statusHerr_zero
  · obtain ⟨hgood, hbad⟩ := contractDecidesMisuse i s t h
    cases hwf : i.wellFormed with
    | true => exact absurd ht (Bool.eq_false_iff.1 ((hgood hwf).2 hs))
    | false => exact (hbad hwf).1

/-! ### `VFY` of a block built with any parameters, and the build of the other reading (log 7) -/

theorem execVfyWith_lengthError {cfg : Config} {s : State} {c : ResultCode} (h : lengthError cfg s = some c) :
    execVfyWith cfg s = .next ((s.setVerdict c false).respond c 0) := by
  simp only [execVfyWith, h, fail_eq]

theorem execVfyWith_match {cfg : Config} {s : State} (h : lengthError cfg s = none) (hv : FrameVerifies cfg s) :
    execVfyWith cfg s = .next (((s.absorbFrame cfg).setVerdict .none true).respond .none 1) := by
  simp only [execVfyWith, h]
  exact if_pos hv

theorem execVfyWith_mismatch {cfg : Config} {s : State} (h : lengthError cfg s = none) (hv : ¬FrameVerifies cfg s) :
    execVfyWith cfg s =
      .next (((s.absorbMismatch cfg).setVerdict .checksumMismatch false).respond .checksumMismatch 0) := by
  simp only [execVfyWith, h]
  exact if_neg hv

/-! The two builds differ in no parameter that the length check, the CRC or the checksum field depends on. -/

theorem lengthError_hwKeepsCrc (s : State) : lengthError Config.hwKeepsCrc s = lengthError Config.hw s := rfl

theorem absorbFrame_hwKeepsCrc (s : State) : s.absorbFrame Config.hwKeepsCrc = s.absorbFrame Config.hw := rfl

theorem frameVerifies_hwKeepsCrc (s : State) : FrameVerifies Config.hwKeepsCrc s ↔ FrameVerifies Config.hw s := Iff.rfl

/-- Settles O46: the two builds part only at a mismatch, where the other one keeps `CRC`. -/
theorem otherReadingKeepsCrcOnMismatch : Obligations.OtherReadingKeepsCrcOnMismatch := by
  unfold Obligations.OtherReadingKeepsCrcOnMismatch
  intro s
  cases hlen : lengthError Config.hw s with
  | some c =>
    exact ⟨_, _, c, 0, execVfyWith_lengthError ((lengthError_hwKeepsCrc s).trans hlen), execVfyWith_lengthError hlen,
      answered_respond _ _, answered_respond _ _, rfl, fun _ => ⟨rfl, regsSameExcept_iff.2 (by simp), bufSame_of_eq rfl rfl⟩,
      fun _ => rfl⟩
  | none =>
    have hlen' := (lengthError_hwKeepsCrc s).trans hlen
    by_cases hv : FrameVerifies Config.hw s
    · refine ⟨_, _, .none, 1, execVfyWith_match hlen' ((frameVerifies_hwKeepsCrc s).2 hv), execVfyWith_match hlen hv,
        answered_respond _ _, answered_respond _ _, rfl, fun h => absurd rfl h, fun _ => ?_⟩
      rw [absorbFrame_hwKeepsCrc]
    · exact ⟨_, _, .checksumMismatch, 0, execVfyWith_mismatch hlen' ((frameVerifies_hwKeepsCrc s).not.2 hv),
        execVfyWith_mismatch hlen hv, answered_respond _ _, answered_respond _ _, rfl,
        fun _ => ⟨rfl, regsSameExcept_iff.2 (by simp), bufSame_of_eq rfl rfl⟩, nofun⟩

end Sys2Proof.Machine

/-! ## Proofs of the family `70_reset_and_hazards.md`: the reset event, and every request answered once -/

namespace Sys2Proof.Machine

/-! ### The reset event (70_reset_and_hazards.md R170, R171) -/

/-- Settles O11: the step on a reset input is the reset event, whose fields and bytes are those of `State.resetEvent`. -/
theorem resetEventRule : Obligations.ResetEventRule := by
  unfold Obligations.ResetEventRule
  intro s rest h
  exact ⟨_, step_reset h, rfl, rfl, rfl, rfl, rfl, rfl, rfl, rfl, bufRead_resetEvent _ _, rfl, rfl, rfl⟩

/-! ### What serving one input adds to the responses (70_reset_and_hazards.md R182) -/

/-- An input the host expects a response to; command words and resets are none (logs 5, 6). -/
def isRequestInput : Input → Bool
  | .word (.request _) => true
  | .word (.command _) | .reset => false

/-- A tag run on its own gives no response (log 5). -/
theorem ExecCase.responses_kept {s t : State} {i : Instr} (h : ExecCase s i t) (hi : i.isRequest = false) :
    t.responses = s.responses := by
  cases h
  case name | size | hash | data | stop => rfl
  all_goals cases hi

/-- A command word, known or not, is served without a response (log 5). -/
theorem step_command {s : State} {v : Word} {rest : List Input} (h : s.inputs = .word (.command v) :: rest) :
    ∃ t, step s = .next t ∧ t.inputs = rest ∧ t.responses = s.responses := by
  obtain ⟨-, hunknown, -⟩ := stepRunsTheDecodedInstruction
  rcases hd : decode (.command v) with r | i
  · exact ⟨_, hunknown s v rest r h hd, rfl, rfl⟩
  · obtain ⟨t, ht, hc⟩ := exec_cases i { s with inputs := rest }
    exact ⟨t, (step_word_ok h hd).trans ht, hc.channel_kept.1, hc.responses_kept (decodeCommand_isRequest hd)⟩

/-- A step takes the oldest input off the list and adds one response if it is a request, none otherwise. -/
theorem step_serves_oldest {s : State} {x : Input} {rest : List Input} (h : s.inputs = x :: rest) :
    ∃ t given, step s = .next t ∧ t.inputs = rest ∧ t.responses = s.responses ++ given ∧
      given.length = if isRequestInput x then 1 else 0 := by
  match x with
  | .word (.request w) =>
    obtain ⟨t, c, d, ht, ⟨hresp, hin, -, -⟩, -⟩ := oneResponsePerRequest.1 s w rest h
    exact ⟨t, [⟨c, d⟩], ht, hin, hresp, rfl⟩
  | .word (.command v) =>
    obtain ⟨t, ht, hin, hresp⟩ := step_command h
    exact ⟨t, [], ht, hin, by rw [hresp, List.append_nil], rfl⟩
  | .reset => exact ⟨_, [], step_reset h, rfl, (List.append_nil _).symm, rfl⟩

/-! ### Runs (70_reset_and_hazards.md R184) -/

/-- One step per pending input serves them all and appends one response per request among them. -/
theorem run_serves_pending {s : State} {pending : List Input} (h : s.inputs = pending) :
    ∃ (t : State) (given : List Response), Host.Core.run core pending.length s = .next t ∧ t.inputs = [] ∧
      t.responses = s.responses ++ given ∧ given.length = (pending.filter isRequestInput).length := by
  induction pending generalizing s with
  | nil => exact ⟨s, [], run_zero s, h, (List.append_nil _).symm, rfl⟩
  | cons x rest ih =>
    obtain ⟨u, first, hu, huin, huresp, hfirst⟩ := step_serves_oldest h
    obtain ⟨t, later, hrun, htin, htresp, hlater⟩ := ih huin
    refine ⟨t, first ++ later, (run_succ_next _ hu).trans hrun, htin, by rw [htresp, huresp, List.append_assoc], ?_⟩
    rw [List.length_append, hfirst, hlater]
    cases hx : isRequestInput x <;> simp [hx, Nat.add_comm]

/-- Settles O9: the responses a run appends are as many as the pending request words. -/
theorem runAnswersEveryRequest : Obligations.RunAnswersEveryRequest := by
  unfold Obligations.RunAnswersEveryRequest
  intro s
  obtain ⟨t, given, hrun, hin, hresp, hgiven⟩ := run_serves_pending (s := s) rfl
  refine ⟨t, hrun, hin, ?_, given, hresp.symm⟩
  rw [hresp, List.length_append, hgiven]
  refine congrArg (fun requests : List Input => s.responses.length + requests.length) (List.filter_congr fun x _ => ?_)
  rcases x with (_ | _) | _ <;> rfl

end Sys2Proof.Machine
